-- ==== Sys2Proof/Word.lean ====
section
/-! DEFINITION. The words of SPC: bytes and 16-bit fields (00_scope.md R10, 20_memory.md R60). -/

namespace Sys2Proof

/-- A byte: "an unsigned integer 0 to 255" (00_scope.md R10). -/
abbrev Byte := BitVec 8

/-- A 16-bit field or register of SP (10_state.md R25 to R27). -/
abbrev Half := BitVec 16

end Sys2Proof
end

