-- ==== Sys2Proof/Config.lean ====
section
/-! DEFINITION. The implementation parameters of SPC (00_scope.md R5) and the two the spec leaves OPEN, as free values. -/

namespace Sys2Proof

/-- How the platform connects the serial receive line to `dev_rx` and `pkt_rx`: parameter `RX_ROUTE` (00_scope.md R5). -/
inductive RxRoute where
  | toBC
  | toPP
  | toBoth
  deriving DecidableEq, Repr, Inhabited

/-- The parameters of an instance (00_scope.md R5). No operation changes them (10_state.md R21). Their legal ranges are
checked by `Params.wf` (00_scope.md R6). -/
structure Params where
  /-- `CAPACITY`: the number of bytes RB can hold. -/
  capacity : Nat
  /-- `MAX_PAYLOAD`: the largest chunk one outbound frame carries. -/
  maxPayload : Nat
  /-- `CMD_HEADER`: the bytes that open an outbound frame. -/
  cmdHeader : List Byte
  /-- `ST_READY`. -/
  stReady : Byte
  /-- `ST_FULL`. -/
  stFull : Byte
  /-- `ST_DATA_RECEIVED`. -/
  stDataReceived : Byte
  /-- `ST_ERROR`. -/
  stError : Byte
  /-- `ST_MESSAGE`. -/
  stMessage : Byte
  /-- `PP_START`. -/
  ppStart : Byte
  /-- `PP_LEADIN`. -/
  ppLeadin : Byte
  /-- `PP_MAX_SIZE`: the largest payload PP accepts. -/
  ppMaxSize : Nat
  /-- `HAS_DISCARD_COUNTER`. -/
  hasDiscardCounter : Bool
  /-- `RX_ROUTE`. -/
  rxRoute : RxRoute
  deriving DecidableEq, Repr

/-- The defaults of 00_scope.md R5, for given values of the two parameters that have none. -/
def Params.withDefaults (capacity : Nat) (rxRoute : RxRoute) : Params where
  capacity := capacity
  maxPayload := 64
  cmdHeader := [0x65]
  stReady := 0x72
  stFull := 0x74
  stDataReceived := 0x76
  stError := 0x78
  stMessage := 0x6D
  ppStart := 0xBB
  ppLeadin := 0x88
  ppMaxSize := 255
  hasDiscardCounter := true
  rxRoute := rxRoute

/-- A free value: one less than the `CAPACITY` of the instance that `State.reset` describes. 00_scope.md R5 leaves
`CAPACITY` OPEN, at least 1 (assumption log 1). -/
opaque Config.openCapacityLessOne : Nat

/-- A free value: the `RX_ROUTE` of the instance that `State.reset` describes, OPEN in 00_scope.md R5 (assumption
log 1). -/
opaque Config.openRxRoute : RxRoute

/-- The parameters of the instance that `State.reset` describes: the defaults, and a free value for each OPEN one. -/
def Params.atReset : Params := Params.withDefaults (Config.openCapacityLessOne + 1) Config.openRxRoute

end Sys2Proof
end

