-- ==== Sys2Proof/Syntax.lean ====
section
/-! DEFINITION. The names of the state registers, the input events of SPC's ports, the lines of the text notation, and
`Instr`: one constructor per row of spec/opcode_table.json. -/

namespace Sys2Proof

/-- The seven names `sp_state` holds (10_state.md R24), in the order of the source's list. -/
inductive SpState where
  | waitForSync
  | addressLow
  | addressHigh
  | countLow
  | countHigh
  | dataLow
  | dataHigh
  deriving DecidableEq, Repr

/-- The three names `bc_rx_state` holds (10_state.md R32). -/
inductive BcRxState where
  | awaitingNotification
  | messageSizeExpected
  | messageDataExpected
  deriving DecidableEq, Repr

/-- The six names `pp_state` holds (10_state.md R36). -/
inductive PpState where
  | start
  | leadIn
  | address
  | size
  | data
  | checksum
  deriving DecidableEq, Repr

/-- The values of `bc_fault` (10_state.md R35). -/
inductive BcFault where
  | none
  | overflow
  | underflow
  deriving DecidableEq, Repr

/-- What the ingress agent delivers (60_exceptions.md R221): a byte on `sp_in`, or a burst on `ing`. -/
inductive IngressEvent where
  | spb (b : Byte)
  | ing (bs : List Byte)
  deriving DecidableEq, Repr

/-- What the device agent delivers (60_exceptions.md R221): a byte on `dev_rx`, or a byte on `pkt_rx`. -/
inductive DeviceEvent where
  | drx (b : Byte)
  | prx (b : Byte)
  deriving DecidableEq, Repr

/-- The three pure queries of RB, read by the host on port `status` (10_state.md R48, 60_exceptions.md R221). -/
inductive RbQuery where
  | size
  | capacity
  | isEmpty
  deriving DecidableEq, Repr

/-- What the host delivers (60_exceptions.md R221): `RESET` on `reset`, or a query on `status`. -/
inductive HostEvent where
  | reset
  | query (q : RbQuery)
  deriving DecidableEq, Repr

/-- The three agents of 60_exceptions.md R221. -/
inductive Agent where
  | ingress
  | device
  | host
  deriving DecidableEq, Repr

/-- One input event on one port (00_scope.md R8, 10_state.md R22). -/
inductive Event where
  | ingress (e : IngressEvent)
  | device (e : DeviceEvent)
  | host (e : HostEvent)
  deriving DecidableEq, Repr

/-- The agent that delivers an event. -/
def Event.agent : Event → Agent
  | .ingress _ => .ingress
  | .device _ => .device
  | .host _ => .host

/-- The lines of the text notation and its pseudo-operations (30_encoding.md R113, R114). -/
inductive Line where
  | reset
  | spb (b : Byte)
  | ing (bs : List Byte)
  | drx (b : Byte)
  | prx (b : Byte)
  | spbuf (bs : List Byte)
  | dgram (bs : List Byte)
  | ser (b : Byte)
  | drxbuf (bs : List Byte)
  | prxbuf (bs : List Byte)
  deriving DecidableEq, Repr

/-- The operations of SPC and the pseudo-operation `SP.BUF`: one constructor per row of spec/opcode_table.json
(30_encoding.md R115). The operand of an operation that a byte selects is that byte, except where the byte is fixed. -/
inductive Instr where
  | spWfs (b : Byte)
  | spAddrl (b : Byte)
  | spAddrh (b : Byte)
  | spCntl (b : Byte)
  | spCnth (b : Byte)
  | spDatl (b : Byte)
  | spDath (b : Byte)
  | spResync (b : Byte)
  | spBuf (bs : List Byte)
  | rbPush (b : Byte)
  | rbPushn (bs : List Byte)
  | rbPop
  | rbSize
  | rbCap
  | rbEmpty
  | bcIng (bs : List Byte)
  | bcFlush
  | bcRdy
  | bcFull
  | bcDrcv
  | bcErr
  | bcMsg
  | bcUnk (b : Byte)
  | bcMsize (b : Byte)
  | bcMdata (b : Byte)
  | ppStart (b : Byte)
  | ppLeadin (b : Byte)
  | ppAddr (b : Byte)
  | ppSize (b : Byte)
  | ppData (b : Byte)
  | ppCksum (b : Byte)
  | reset
  deriving DecidableEq, Repr

end Sys2Proof
end

