-- ==== Sys2Proof/WellFormed.lean ====
section
/-! DEFINITION. Which parameters and which operands the spec admits. -/

namespace Sys2Proof

/-- The five status codes in the order of 30_encoding.md R100. -/
def Params.statusCodes (p : Params) : List Byte :=
  [p.stReady, p.stFull, p.stDataReceived, p.stError, p.stMessage]

/-- The constraints on the parameters (00_scope.md R5, R6). "A model that is given parameter values outside these ranges
refuses them": `Machine.step` does, with `Refusal.illegalParameters`. -/
def Params.wf (p : Params) : Bool :=
  decide (1 ≤ p.capacity) && decide (1 ≤ p.maxPayload) && decide (p.maxPayload ≤ 255) &&
    !p.cmdHeader.isEmpty && decide p.statusCodes.Nodup && decide (p.ppMaxSize ≤ 255)

/-- An operation's operand is one the spec admits: a burst holds one or more bytes (41_ring_buffer.md R151,
42_bus_controller.md R165), and the byte of `BC.UNK` is none of the five status codes (R173). Every other operand is any
byte (30_encoding.md R107 to R109), and `SP.BUF` takes any sequence (40_stream_parser.md R139). -/
def Instr.wf (p : Params) : Instr → Bool
  | .spWfs _ => true
  | .spAddrl _ => true
  | .spAddrh _ => true
  | .spCntl _ => true
  | .spCnth _ => true
  | .spDatl _ => true
  | .spDath _ => true
  | .spResync _ => true
  | .spBuf _ => true
  | .rbPush _ => true
  | .rbPushn bs => !bs.isEmpty
  | .rbPop => true
  | .rbSize => true
  | .rbCap => true
  | .rbEmpty => true
  | .bcIng bs => !bs.isEmpty
  | .bcFlush => true
  | .bcRdy => true
  | .bcFull => true
  | .bcDrcv => true
  | .bcErr => true
  | .bcMsg => true
  | .bcUnk b => decide (b ∉ p.statusCodes)
  | .bcMsize _ => true
  | .bcMdata _ => true
  | .ppStart _ => true
  | .ppLeadin _ => true
  | .ppAddr _ => true
  | .ppSize _ => true
  | .ppData _ => true
  | .ppCksum _ => true
  | .reset => true

end Sys2Proof
end

