-- ==== Sys2Proof/Decode.lean ====
section
/-! DEFINITION. Which operation an input event selects (30_encoding.md section 6), the encoder back, the expansion of the
text lines, and the words of spec/opcode_table.json. -/

namespace Sys2Proof

/-- What the selection of an operation reads besides the event (30_encoding.md R106): the three state registers, whether
`bc_fault` is other than `None` (R108), and the parameters that replace the default status codes. -/
structure Selector where
  params : Params
  spState : SpState
  rxState : BcRxState
  ppState : PpState
  halted : Bool
  deriving DecidableEq, Repr

/-- Why an event selects no operation. -/
inductive Reject where
  /-- A byte on `dev_rx` while `bc_fault` is not `None` is dropped (30_encoding.md R108). -/
  | busControllerHalted
  deriving DecidableEq, Repr

/-- The outcome of the selection: exactly one operation, or an event dropped for a named reason. -/
inductive Selection where
  | op (i : Instr)
  | dropped (why : Reject)
  deriving DecidableEq, Repr

/-- Selection on `sp_in`, by `sp_state` (30_encoding.md R107). -/
def selectSp (st : SpState) (b : Byte) : Instr :=
  match st with
  | .waitForSync => .spWfs b
  | .addressLow => .spAddrl b
  | .addressHigh => .spAddrh b
  | .countLow => .spCntl b
  | .countHigh => .spCnth b
  | .dataLow => .spDatl b
  | .dataHigh => .spDath b

/-- Selection of a status byte in `AwaitingNotification` (30_encoding.md R100, R108): `BC.UNK` is taken last (R115). -/
def selectStatus (p : Params) (b : Byte) : Instr :=
  if b = p.stReady then .bcRdy
  else if b = p.stFull then .bcFull
  else if b = p.stDataReceived then .bcDrcv
  else if b = p.stError then .bcErr
  else if b = p.stMessage then .bcMsg
  else .bcUnk b

/-- Selection on `dev_rx`, by `bc_rx_state` and the byte (30_encoding.md R108). -/
def selectDev (p : Params) (st : BcRxState) (b : Byte) : Instr :=
  match st with
  | .awaitingNotification => selectStatus p b
  | .messageSizeExpected => .bcMsize b
  | .messageDataExpected => .bcMdata b

/-- Selection on `pkt_rx`, by `pp_state` (30_encoding.md R109). -/
def selectPp (st : PpState) (b : Byte) : Instr :=
  match st with
  | .start => .ppStart b
  | .leadIn => .ppLeadin b
  | .address => .ppAddr b
  | .size => .ppSize b
  | .data => .ppData b
  | .checksum => .ppCksum b

/-- Selection on `status` (30_encoding.md R110). -/
def selectQuery : RbQuery → Instr
  | .size => .rbSize
  | .capacity => .rbCap
  | .isEmpty => .rbEmpty

/-- The decoder: the operation an input event selects (30_encoding.md R106 to R110). It is total. An event on `ing`
selects `BC.ING` whatever the states (R110); a byte on `dev_rx` of a faulted BC selects none (R108). -/
def decode (ev : Event) (sel : Selector) : Selection :=
  match ev with
  | .ingress (.spb b) => .op (selectSp sel.spState b)
  | .ingress (.ing bs) => .op (.bcIng bs)
  | .device (.drx b) =>
    if sel.halted then .dropped .busControllerHalted else .op (selectDev sel.params sel.rxState b)
  | .device (.prx b) => .op (selectPp sel.ppState b)
  | .host .reset => .op .reset
  | .host (.query q) => .op (selectQuery q)

/-- Where an operation's event selects it: in any state, or in one state of one state register. -/
inductive Home where
  | any
  | sp (st : SpState)
  | rx (st : BcRxState)
  | pp (st : PpState)
  deriving DecidableEq, Repr

/-- An operation's encoding: the event, and the state in which that event selects it (30_encoding.md R106). -/
structure Encoding where
  event : Event
  home : Home
  deriving DecidableEq, Repr

/-- The selector is in the state an encoding asks for. The BC rows also ask for `bc_fault = None` (R108). -/
def Selector.admits (sel : Selector) : Home → Bool
  | .any => true
  | .sp st => decide (sel.spState = st)
  | .rx st => !sel.halted && decide (sel.rxState = st)
  | .pp st => decide (sel.ppState = st)

/-- The encoder: the event that selects an operation, from the tables of 30_encoding.md R107 to R110. None for the
operations that no event selects: the internal step `SP.RESYNC` (R107), the pseudo-operation `SP.BUF` (R114), and
`RB.PUSH`, `RB.PUSHN`, `RB.POP`, `BC.FLUSH`, which only BC performs (R110). -/
def encode (p : Params) : Instr → Option Encoding
  | .spWfs b => some ⟨.ingress (.spb b), .sp .waitForSync⟩
  | .spAddrl b => some ⟨.ingress (.spb b), .sp .addressLow⟩
  | .spAddrh b => some ⟨.ingress (.spb b), .sp .addressHigh⟩
  | .spCntl b => some ⟨.ingress (.spb b), .sp .countLow⟩
  | .spCnth b => some ⟨.ingress (.spb b), .sp .countHigh⟩
  | .spDatl b => some ⟨.ingress (.spb b), .sp .dataLow⟩
  | .spDath b => some ⟨.ingress (.spb b), .sp .dataHigh⟩
  | .spResync _ => none
  | .spBuf _ => none
  | .rbPush _ => none
  | .rbPushn _ => none
  | .rbPop => none
  | .rbSize => some ⟨.host (.query .size), .any⟩
  | .rbCap => some ⟨.host (.query .capacity), .any⟩
  | .rbEmpty => some ⟨.host (.query .isEmpty), .any⟩
  | .bcIng bs => some ⟨.ingress (.ing bs), .any⟩
  | .bcFlush => none
  | .bcRdy => some ⟨.device (.drx p.stReady), .rx .awaitingNotification⟩
  | .bcFull => some ⟨.device (.drx p.stFull), .rx .awaitingNotification⟩
  | .bcDrcv => some ⟨.device (.drx p.stDataReceived), .rx .awaitingNotification⟩
  | .bcErr => some ⟨.device (.drx p.stError), .rx .awaitingNotification⟩
  | .bcMsg => some ⟨.device (.drx p.stMessage), .rx .awaitingNotification⟩
  | .bcUnk b => some ⟨.device (.drx b), .rx .awaitingNotification⟩
  | .bcMsize b => some ⟨.device (.drx b), .rx .messageSizeExpected⟩
  | .bcMdata b => some ⟨.device (.drx b), .rx .messageDataExpected⟩
  | .ppStart b => some ⟨.device (.prx b), .pp .start⟩
  | .ppLeadin b => some ⟨.device (.prx b), .pp .leadIn⟩
  | .ppAddr b => some ⟨.device (.prx b), .pp .address⟩
  | .ppSize b => some ⟨.device (.prx b), .pp .size⟩
  | .ppData b => some ⟨.device (.prx b), .pp .data⟩
  | .ppCksum b => some ⟨.device (.prx b), .pp .checksum⟩
  | .reset => some ⟨.host .reset, .any⟩

/-- The events a serial byte becomes, by `RX_ROUTE` (30_encoding.md R114, pseudo-operation `SER`). -/
def serialEvents : RxRoute → Byte → List Event
  | .toBC, b => [.device (.drx b)]
  | .toPP, b => [.device (.prx b)]
  | .toBoth, b => [.device (.drx b), .device (.prx b)]

/-- The events a line of the text notation stands for, in order (30_encoding.md R113, R114). -/
def Line.events (route : RxRoute) : Line → List Event
  | .reset => [.host .reset]
  | .spb b => [.ingress (.spb b)]
  | .ing bs => [.ingress (.ing bs)]
  | .drx b => [.device (.drx b)]
  | .prx b => [.device (.prx b)]
  | .spbuf bs => bs.map fun b => .ingress (.spb b)
  | .dgram bs => (bs.map fun b => .ingress (.spb b)) ++ [.ingress (.ing bs)]
  | .ser b => serialEvents route b
  | .drxbuf bs => bs.map fun b => .device (.drx b)
  | .prxbuf bs => bs.map fun b => .device (.prx b)

/-- The selector of the rows of spec/opcode_table.json that a byte alone can tell apart: the state
`AwaitingNotification`, the default status codes, no fault. -/
def Selector.ofTable : Selector where
  params := Params.withDefaults 1 .toBC
  spState := .waitForSync
  rxState := .awaitingNotification
  ppState := .start
  halted := false

/-- The operation of a table word. A table word is the input byte alone (30_encoding.md R115: "`match` and `mask` are over
the 8-bit input byte with the default parameter values"); it names no port and no state. It is read as a byte on `dev_rx`
in `AwaitingNotification`, the one place where the byte's value selects (R106); assumption log 8. -/
def decodeTableWord (nbits w : Nat) : Option Instr :=
  if nbits = 8 ∧ w < 256 then
    match decode (.device (.drx (BitVec.ofNat 8 w))) Selector.ofTable with
    | .op i => some i
    | .dropped _ => none
  else none

end Sys2Proof
end

