-- ==== Sys2Proof/Machine/State.lean ====
section
/-! DEFINITION. The state of SPC (10_state.md R20, R23), the reasons a step can stop, and the state after reset. -/

namespace Sys2Proof.Machine

/-- The registers of SP (10_state.md R24 to R28). -/
structure SpRegs where
  /-- `sp_state`. -/
  state : SpState
  /-- `sp_address`. -/
  address : Half
  /-- `sp_count`. -/
  count : Half
  /-- `sp_value`. -/
  value : Half
  /-- `sp_sync_run`. -/
  syncRun : BitVec 2
  deriving DecidableEq, Repr

/-- The registers of BC (10_state.md R31 to R35); the queue it owns is `State.rbQ`. -/
structure BcRegs where
  /-- `bc_ready`, the credit flag. -/
  ready : Bool
  /-- `bc_rx_state`. -/
  rxState : BcRxState
  /-- `bc_msg_remaining`. -/
  msgRemaining : Byte
  /-- `bc_msg_buf`. -/
  msgBuf : List Byte
  /-- `bc_fault`. -/
  fault : BcFault
  deriving DecidableEq, Repr

/-- The registers of PP (10_state.md R36 to R43). -/
structure PpRegs where
  /-- `pp_state`. -/
  state : PpState
  /-- `pp_type`. -/
  type : BitVec 3
  /-- `pp_address`. -/
  address : BitVec 5
  /-- `pp_size`. -/
  size : Byte
  /-- `pp_remaining`. -/
  remaining : Byte
  /-- `pp_sum`. -/
  sum : Byte
  /-- `pp_buf`. -/
  buf : List Byte
  /-- `pp_discards`. -/
  discards : Nat
  deriving DecidableEq, Repr

/-- An event on `sp_evt` (10_state.md R22). -/
inductive SpEvent where
  | data (address value : Half)
  | sync
  deriving DecidableEq, Repr

/-- An event on `cmd_out` (10_state.md R22). -/
structure Command where
  bytes : List Byte
  deriving DecidableEq, Repr

/-- An event on `pkt_out` (10_state.md R22). -/
structure Packet where
  type : BitVec 3
  address : BitVec 5
  data : List Byte
  deriving DecidableEq, Repr

/-- What an RB operation returns to a caller outside SPC (41_ring_buffer.md R152 to R155). -/
inductive RbReply where
  | byte (b : Byte)
  | size (n : Nat)
  | capacity (n : Nat)
  | empty (e : Bool)
  deriving DecidableEq, Repr

/-- The output logs (10_state.md R23), oldest event first, and the model's own log of RB's replies (assumption log 4).
No operation reads them. -/
structure Outputs where
  /-- `sp_evt_log`. -/
  spEvt : List SpEvent
  /-- `dev_tx_log`, one list of bytes per outbound frame. -/
  devTx : List (List Byte)
  /-- `cmd_out_log`. -/
  cmdOut : List Command
  /-- `pkt_out_log`. -/
  pktOut : List Packet
  /-- The model's own: what RB operations returned to their caller. -/
  rbReply : List RbReply
  deriving DecidableEq, Repr

/-- The environment (60_exceptions.md R221): what each agent has still to deliver, in its order, and the order in which
the agents act. The model's own (assumption log 2). -/
structure Env where
  ingress : List IngressEvent
  device : List DeviceEvent
  host : List HostEvent
  schedule : List Agent
  deriving DecidableEq, Repr

/-- The state of the machine: the registers and sequences of 10_state.md R20, the output logs of R23, the instance's
parameters (R21; assumption log 1), and the environment. -/
structure State where
  params : Params
  sp : SpRegs
  /-- `rb_q`, element 0 the oldest (10_state.md R29). -/
  rbQ : List Byte
  bc : BcRegs
  pp : PpRegs
  out : Outputs
  env : Env
  deriving DecidableEq, Repr

/-- Why the machine stops with a fault: never. The spec's faults `Overflow` and `Underflow` are values of `bc_fault` in a
machine that goes on (60_exceptions.md R210, R211), so this type has no constructor (assumption log 14). Safe. -/
inductive Fault where
  deriving DecidableEq, Repr

/-- Why the machine refuses to take a step. -/
inductive Refusal where
  /-- Raised by `exec` for an instruction that has no meaning yet; no arm raises it. Safe. -/
  | notModelled (mnemonic : String)
  /-- Raised by `step` alone, for an instance whose parameters are outside their ranges: "A model that is given parameter
  values outside these ranges refuses them" (00_scope.md R6). Safe. -/
  | illegalParameters
  deriving DecidableEq, Repr

/-- The outcome of an operation or a step. -/
abbrev Result := Host.Outcome State Fault Refusal

/-- SP after reset (10_state.md R52). -/
def SpRegs.reset : SpRegs where
  state := .waitForSync
  address := 0
  count := 0
  value := 0
  syncRun := 0

/-- BC after reset (10_state.md R52). -/
def BcRegs.reset : BcRegs where
  ready := false
  rxState := .awaitingNotification
  msgRemaining := 0
  msgBuf := []
  fault := .none

/-- PP after reset (10_state.md R52). -/
def PpRegs.reset : PpRegs where
  state := .start
  type := 0
  address := 0
  size := 0
  remaining := 0
  sum := 0
  buf := []
  discards := 0

/-- No event observed yet (assumption log 3). -/
def Outputs.empty : Outputs where
  spEvt := []
  devTx := []
  cmdOut := []
  pktOut := []
  rbReply := []

/-- No event to deliver (assumption log 2). -/
def Env.empty : Env where
  ingress := []
  device := []
  host := []
  schedule := []

/-- The machine with given parameters, right after reset (10_state.md R52). -/
def State.resetWith (p : Params) : State where
  params := p
  sp := SpRegs.reset
  rbQ := []
  bc := BcRegs.reset
  pp := PpRegs.reset
  out := Outputs.empty
  env := Env.empty

/-- The machine right after reset (10_state.md R52), with the default parameters and a free value for each that the spec
leaves OPEN (assumption logs 1 and 17). -/
def State.reset : State := State.resetWith Params.atReset

/-- What the selection of an operation reads (30_encoding.md R106, R108). -/
def State.selector (s : State) : Selector where
  params := s.params
  spState := s.sp.state
  rxState := s.bc.rxState
  ppState := s.pp.state
  halted := decide (s.bc.fault ≠ .none)

end Sys2Proof.Machine
end

