-- ==== Sys2Proof/Machine/Operands.lean ====
section
/-! DEFINITION. The operand forms of SPC's operations: how a byte becomes a register's value (44_operation_classes.md
R260). -/

namespace Sys2Proof.Machine

/-- `zext_16(b)` (00_scope.md R10): the low byte of a 16-bit field, which arrives first; the old value is discarded. -/
def lowByte (b : Byte) : Half := b.zeroExtend 16

/-- `r + (b << 8)` modulo 65536 (30_encoding.md R93, 20_memory.md R61): the high byte of a 16-bit field. -/
def addHighByte (r : Half) (b : Byte) : Half := r + (b.zeroExtend 16 <<< 8)

/-- `type = byte >> 5`, bits 7 to 5 (30_encoding.md R104). -/
def packetType (b : Byte) : BitVec 3 := b.extractLsb' 5 3

/-- `address = byte & 0x1F`, bits 4 to 0 (30_encoding.md R104). -/
def packetAddress (b : Byte) : BitVec 5 := b.extractLsb' 0 5

/-- A natural as the one-byte size field of a frame (30_encoding.md R98). -/
def sizeByte (n : Nat) : Byte := BitVec.ofNat 8 n

end Sys2Proof.Machine
end

