-- ==== Sys2Proof/Machine/Flags.lean ====
section
/-! DEFINITION. The two flags of SPC (10_state.md R47), the conditions the operations test, and the checksums. -/

namespace Sys2Proof.Machine

/-- `bc_fault = None`: BC and RB work (42_bus_controller.md R179). -/
def running (s : State) : Bool := decide (s.bc.fault = .none)

/-- "`deviceReady` is true and the buffer is non-empty": a flush is due (42_bus_controller.md R167). -/
def flushDue (s : State) : Bool := s.bc.ready && !s.rbQ.isEmpty

/-- `bc_ready <- v` (10_state.md R31). -/
def setReady (v : Bool) (s : State) : State := { s with bc := { s.bc with ready := v } }

/-- `len(rb_q) + n > CAPACITY`: the comparison of naturals that decides `Overflow` (44_operation_classes.md R260). -/
def overflows (s : State) (n : Nat) : Bool := decide (s.params.capacity < s.rbQ.length + n)

/-- `sum(s)`: the sum of the bytes of a sequence as a natural (00_scope.md R11). -/
def byteSum : List Byte → Nat
  | [] => 0
  | b :: bs => b.toNat + byteSum bs

/-- The outbound checksum `(n + sum(d)) mod 256` of a chunk `d` of `n` bytes (30_encoding.md R99). -/
def frameChecksum (d : List Byte) : Byte := BitVec.ofNat 8 (d.length + byteSum d)

/-- `pp_sum <- (pp_sum + b) mod 256` (43_packet_parser.md R194, R195). -/
def addToSum (sum b : Byte) : Byte := sum + b

/-- `b > PP_MAX_SIZE`, unsigned (43_packet_parser.md R194). -/
def oversize (p : Params) (b : Byte) : Bool := decide (p.ppMaxSize < b.toNat)

/-- `pp_discards + 1`, if `HAS_DISCARD_COUNTER` (10_state.md R43). -/
def countDiscard (p : Params) (r : PpRegs) : PpRegs :=
  if p.hasDiscardCounter then { r with discards := r.discards + 1 } else r

end Sys2Proof.Machine
end

