-- ==== Sys2Proof/Machine/Ops.lean ====
section
/-! DEFINITION. The operations shared by the meanings: writes of a unit's registers, `emit`, `raise`, the ring buffer's push
and pop, the chunk and the frame of a flush, `PP.CLEAR`, the resynchronisation step, and the delivery of an event. -/

namespace Sys2Proof.Machine

/-- Write SP's registers. -/
def setSp (r : SpRegs) (s : State) : State := { s with sp := r }

/-- Write `rb_q`. -/
def setRbQ (q : List Byte) (s : State) : State := { s with rbQ := q }

/-- Write BC's registers. -/
def setBc (r : BcRegs) (s : State) : State := { s with bc := r }

/-- Write PP's registers. -/
def setPp (r : PpRegs) (s : State) : State := { s with pp := r }

/-- Write what the agents have still to deliver. -/
def setEnv (e : Env) (s : State) : State := { s with env := e }

/-- `emit sp_evt(e)` (00_scope.md R13). -/
def emitSp (e : SpEvent) (s : State) : State :=
  { s with out := { s.out with spEvt := s.out.spEvt ++ [e] } }

/-- `emit dev_tx(frame)`: one frame, whole and at once (20_memory.md R82). -/
def emitFrame (f : List Byte) (s : State) : State :=
  { s with out := { s.out with devTx := s.out.devTx ++ [f] } }

/-- `emit cmd_out(Command(bytes))`. -/
def emitCommand (bs : List Byte) (s : State) : State :=
  { s with out := { s.out with cmdOut := s.out.cmdOut ++ [⟨bs⟩] } }

/-- `emit pkt_out(p)`. -/
def emitPacket (p : Packet) (s : State) : State :=
  { s with out := { s.out with pktOut := s.out.pktOut ++ [p] } }

/-- What an RB operation returns to a caller outside SPC (assumption log 4). -/
def replyRb (r : RbReply) (s : State) : State :=
  { s with out := { s.out with rbReply := s.out.rbReply ++ [r] } }

/-- TAKING A FAULT: `raise F` sets `bc_fault` "and nothing else" (60_exceptions.md R210). The operation that raises ends at
once: its caller returns this state. There is no return from it but `RESET` (R212). -/
def raiseFault (f : BcFault) (s : State) : State := { s with bc := { s.bc with fault := f } }

/-- A BC or RB operation: while `bc_fault` is not `None` it does nothing (42_bus_controller.md R179, 60_exceptions.md
R213; assumption log 5 for RB performed alone). -/
def whileRunning (f : State → State) (s : State) : State := if running s then f s else s

/-- `RB.PUSHN` (41_ring_buffer.md R151), of which `RB.PUSH` (R150) is the burst of one byte: all of the burst, or `raise
Overflow`. `error` holds the state in which a raise ends the operation. -/
def rbPush (bs : List Byte) (s : State) : Except State State :=
  if overflows s bs.length then .error (raiseFault .overflow s) else .ok (setRbQ (s.rbQ ++ bs) s)

/-- `RB.POP` (41_ring_buffer.md R152): the oldest byte, or `raise Underflow`. -/
def rbPop (s : State) : Except State (Byte × State) :=
  match s.rbQ with
  | [] => .error (raiseFault .underflow s)
  | b :: q => .ok (b, setRbQ q s)

/-- `repeat n times: chunk <- chunk ++ [RB.POP()]` (42_bus_controller.md R167). -/
def rbPopN : Nat → State → Except State (List Byte × State)
  | 0, s => .ok ([], s)
  | n + 1, s =>
    match rbPop s with
    | .error t => .error t
    | .ok (b, t) =>
      match rbPopN n t with
      | .error u => .error u
      | .ok (bs, u) => .ok (b :: bs, u)

/-- `n <- min(len(rb_q), MAX_PAYLOAD)` (42_bus_controller.md R167). -/
def chunkSize (s : State) : Nat := min s.rbQ.length s.params.maxPayload

/-- One outbound frame: `CMD_HEADER ++ [n] ++ chunk ++ [cks]` (30_encoding.md R98). -/
def outboundFrame (p : Params) (chunk : List Byte) : List Byte :=
  p.cmdHeader ++ [sizeByte chunk.length] ++ chunk ++ [frameChecksum chunk]

/-- The body of `BC.FLUSH` (42_bus_controller.md R167): pop the chunk, emit the frame, clear the credit (60_exceptions.md
R216). -/
def sendChunk (s : State) : State :=
  match rbPopN (chunkSize s) s with
  | .error t => t
  | .ok (chunk, t) => setReady false (emitFrame (outboundFrame s.params chunk) t)

/-- `BC.FLUSH` is performed only when a flush is due (42_bus_controller.md R167). -/
def flushIfDue (s : State) : State := if flushDue s then sendChunk s else s

/-- `SP.RESYNC`, step 2 of every SP operation (40_stream_parser.md R138). -/
def resync (b : Byte) (r : SpRegs) : SpRegs :=
  if b = 0x55 then
    if r.syncRun = 3 then { r with state := .addressLow, syncRun := 0 }
    else { r with syncRun := r.syncRun + 1 }
  else { r with syncRun := 0 }

/-- `PP.CLEAR` (43_packet_parser.md R197): every PP register but `pp_discards` as after reset. -/
def ppClear (r : PpRegs) : PpRegs := { PpRegs.reset with discards := r.discards }

/-- The next event of the agent whose turn it is, and what is left. No turn, or nothing to deliver, gives no event
(60_exceptions.md R221; assumption log 2). -/
def takeEvent (e : Env) : Option Event × Env :=
  match e.schedule with
  | [] => (none, e)
  | .ingress :: rest =>
    match e.ingress with
    | [] => (none, { e with schedule := rest })
    | x :: xs => (some (.ingress x), { e with schedule := rest, ingress := xs })
  | .device :: rest =>
    match e.device with
    | [] => (none, { e with schedule := rest })
    | x :: xs => (some (.device x), { e with schedule := rest, device := xs })
  | .host :: rest =>
    match e.host with
    | [] => (none, { e with schedule := rest })
    | x :: xs => (some (.host x), { e with schedule := rest, host := xs })

/-- What an event adds to the environment: it becomes the first of its agent's events, and its agent acts first. -/
def Env.cons (ev : Event) (e : Env) : Env :=
  match ev with
  | .ingress x => { e with ingress := x :: e.ingress, schedule := .ingress :: e.schedule }
  | .device x => { e with device := x :: e.device, schedule := .device :: e.schedule }
  | .host x => { e with host := x :: e.host, schedule := .host :: e.schedule }

/-- The environment that delivers a list of events in its order (a run, 70_reset_and_hazards.md R256). -/
def Env.ofEvents : List Event → Env
  | [] => Env.empty
  | ev :: evs => (Env.ofEvents evs).cons ev

/-- The machine with a run's events placed (assumption log 2). -/
def withEvents (evs : List Event) (s : State) : State := setEnv (Env.ofEvents evs) s

/-- The machine with a program of text lines placed (30_encoding.md R113, R114; 95_test_vectors.md Part 3). -/
def withProgram (lines : List Line) (s : State) : State :=
  withEvents (lines.flatMap (Line.events s.params.rxRoute)) s

end Sys2Proof.Machine
end

