-- ==== Sys2Proof/Machine/BusController.lean ====
section
/-! DEFINITION. BC: the bus controller's operations (42_bus_controller.md). Each does nothing while `bc_fault` is not `None`
(R179). -/

namespace Sys2Proof.Machine

/-- `BC.ING` of a running BC (42_bus_controller.md R165): push the whole burst, then flush if the credit is held. An
overflow ends the operation before the flush. -/
def ingest (bs : List Byte) (s : State) : State :=
  match rbPush bs s with
  | .error t => t
  | .ok t => flushIfDue t

/-- The meaning of `BC.ING` (42_bus_controller.md R165). A burst of no bytes is no operation (92_eei_decisions.md D21,
assumption log 7). -/
def execBcIng (bs : List Byte) (s : State) : Result :=
  .next (if bs.isEmpty then s else whileRunning (ingest bs) s)

/-- The meaning of `BC.FLUSH` (42_bus_controller.md R167; assumption log 6 for a flush that is not due). -/
def execBcFlush (s : State) : Result := .next (whileRunning flushIfDue s)

/-- The meaning of `BC.RDY` (42_bus_controller.md R168): the credit, and "immediately attempts step 2". -/
def execBcRdy (s : State) : Result := .next (whileRunning (fun t => flushIfDue (setReady true t)) s)

/-- The meaning of `BC.FULL` (42_bus_controller.md R169). -/
def execBcFull (s : State) : Result := .next (whileRunning (setReady false) s)

/-- The meaning of `BC.DRCV` (42_bus_controller.md R170): no state is written. -/
def execBcDrcv (s : State) : Result := .next s

/-- The meaning of `BC.ERR` (42_bus_controller.md R171): a device error is not an SPC fault. -/
def execBcErr (s : State) : Result := .next (whileRunning (setReady false) s)

/-- The meaning of `BC.MSG` (42_bus_controller.md R172). -/
def execBcMsg (s : State) : Result :=
  .next (whileRunning (fun t => setBc { t.bc with rxState := .messageSizeExpected } t) s)

/-- The meaning of `BC.UNK` (42_bus_controller.md R173): no state is written. -/
def execBcUnk (_b : Byte) (s : State) : Result := .next s

/-- `BC.MSIZE` of a running BC (42_bus_controller.md R174): size 0 emits an empty command at once. -/
def messageSize (b : Byte) (s : State) : State :=
  if b = 0 then setBc { s.bc with rxState := .awaitingNotification } (emitCommand [] s)
  else setBc { s.bc with msgRemaining := b, msgBuf := [], rxState := .messageDataExpected } s

/-- The meaning of `BC.MSIZE` (42_bus_controller.md R174). -/
def execBcMsize (b : Byte) (s : State) : Result := .next (whileRunning (messageSize b) s)

/-- `BC.MDATA` of a running BC (42_bus_controller.md R175): append, count down, and hand over a complete message. -/
def messageData (b : Byte) (s : State) : State :=
  let buf := s.bc.msgBuf ++ [b]
  let left := s.bc.msgRemaining - 1
  if left = 0 then
    setBc { s.bc with msgRemaining := left, msgBuf := [], rxState := .awaitingNotification } (emitCommand buf s)
  else setBc { s.bc with msgRemaining := left, msgBuf := buf } s

/-- The meaning of `BC.MDATA` (42_bus_controller.md R175). -/
def execBcMdata (b : Byte) (s : State) : Result := .next (whileRunning (messageData b) s)

end Sys2Proof.Machine
end

