-- ==== Sys2Proof/Machine/PacketParser.lean ====
section
/-! DEFINITION. PP: the packet parser's operations (43_packet_parser.md). PP is not affected by `bc_fault` (R190). -/

namespace Sys2Proof.Machine

/-- The meaning of `PP.START` (43_packet_parser.md R191). -/
def execPpStart (b : Byte) (s : State) : Result :=
  .next (if b = s.params.ppStart then setPp { s.pp with state := .leadIn } s else s)

/-- The meaning of `PP.LEADIN` (43_packet_parser.md R192): the mismatching byte is consumed. -/
def execPpLeadin (b : Byte) (s : State) : Result :=
  .next (if b = s.params.ppLeadin then setPp { s.pp with state := .address } s else setPp (ppClear s.pp) s)

/-- The meaning of `PP.ADDR` (43_packet_parser.md R193): the byte seeds the checksum. -/
def execPpAddr (b : Byte) (s : State) : Result :=
  .next (setPp { s.pp with
    type := packetType b, address := packetAddress b, sum := b, buf := [], state := .size } s)

/-- `PP.SIZE` on a size that is accepted (43_packet_parser.md R194). -/
def acceptSize (b : Byte) (r : PpRegs) : PpRegs :=
  if b = 0 then { r with size := b, sum := addToSum r.sum b, state := .checksum }
  else { r with size := b, sum := addToSum r.sum b, remaining := b, state := .data }

/-- The meaning of `PP.SIZE` (43_packet_parser.md R194): the oversize test comes before any register write. -/
def execPpSize (b : Byte) (s : State) : Result :=
  .next (setPp (if oversize s.params b then ppClear (countDiscard s.params s.pp) else acceptSize b s.pp) s)

/-- `PP.DATA` (43_packet_parser.md R195). -/
def payloadByte (b : Byte) (r : PpRegs) : PpRegs :=
  let left := r.remaining - 1
  { r with
    buf := r.buf ++ [b], sum := addToSum r.sum b, remaining := left,
    state := if left = 0 then .checksum else r.state }

/-- The meaning of `PP.DATA` (43_packet_parser.md R195). -/
def execPpData (b : Byte) (s : State) : Result := .next (setPp (payloadByte b s.pp) s)

/-- The meaning of `PP.CKSUM` (43_packet_parser.md R196): emit on an exact match, else discard silently; then clear. -/
def execPpCksum (b : Byte) (s : State) : Result :=
  .next (if b = s.pp.sum then
    setPp (ppClear s.pp) (emitPacket ⟨s.pp.type, s.pp.address, s.pp.buf⟩ s)
  else setPp (ppClear (countDiscard s.params s.pp)) s)

end Sys2Proof.Machine
end

