-- ==== Sys2Proof/Machine/RingBuffer.lean ====
section
/-! DEFINITION. RB: the ring buffer's operations (41_ring_buffer.md), performed by any caller. In a faulted BC the first
three do nothing (42_bus_controller.md R179; assumption log 5). -/

namespace Sys2Proof.Machine

/-- The state in which a push ends, raised or not. -/
def pushed (bs : List Byte) (s : State) : State :=
  match rbPush bs s with
  | .error t => t
  | .ok t => t

/-- The meaning of `RB.PUSH` (41_ring_buffer.md R150). -/
def execRbPush (b : Byte) (s : State) : Result := .next (whileRunning (pushed [b]) s)

/-- The meaning of `RB.PUSHN` (41_ring_buffer.md R151). A burst of no bytes is no operation (92_eei_decisions.md D21). -/
def execRbPushn (bs : List Byte) (s : State) : Result :=
  .next (if bs.isEmpty then s else whileRunning (pushed bs) s)

/-- The state in which a pop ends, with the byte returned to its caller. -/
def popped (s : State) : State :=
  match rbPop s with
  | .error t => t
  | .ok (b, t) => replyRb (.byte b) t

/-- The meaning of `RB.POP` (41_ring_buffer.md R152). -/
def execRbPop (s : State) : Result := .next (whileRunning popped s)

/-- The meaning of `RB.SIZE` (41_ring_buffer.md R153). -/
def execRbSize (s : State) : Result := .next (replyRb (.size s.rbQ.length) s)

/-- The meaning of `RB.CAP` (41_ring_buffer.md R154). -/
def execRbCap (s : State) : Result := .next (replyRb (.capacity s.params.capacity) s)

/-- The meaning of `RB.EMPTY` (41_ring_buffer.md R155). -/
def execRbEmpty (s : State) : Result := .next (replyRb (.empty s.rbQ.isEmpty) s)

end Sys2Proof.Machine
end

