-- ==== Sys2Proof/Machine/StreamParser.lean ====
section
/-! DEFINITION. SP: the stream parser's operations (40_stream_parser.md). Each performs its row of the transition table and
then the resynchronisation step (R130). -/

namespace Sys2Proof.Machine

/-- `SP.WFS` (40_stream_parser.md R131). -/
def spWfs (b : Byte) (s : State) : State := setSp (resync b s.sp) s

/-- `SP.ADDRL` (40_stream_parser.md R132). -/
def spAddrl (b : Byte) (s : State) : State :=
  setSp (resync b { s.sp with address := lowByte b, state := .addressHigh }) s

/-- `SP.ADDRH` (40_stream_parser.md R133): the address `0x5555` means "no more data this cycle". -/
def spAddrh (b : Byte) (s : State) : State :=
  let a := addHighByte s.sp.address b
  setSp (resync b { s.sp with address := a, state := if a = 0x5555 then .waitForSync else .countLow }) s

/-- `SP.CNTL` (40_stream_parser.md R134). -/
def spCntl (b : Byte) (s : State) : State :=
  setSp (resync b { s.sp with count := lowByte b, state := .countHigh }) s

/-- `SP.CNTH` (40_stream_parser.md R135): the next state is `DataLow` whatever the count (R141). -/
def spCnth (b : Byte) (s : State) : State :=
  setSp (resync b { s.sp with count := addHighByte s.sp.count b, state := .dataLow }) s

/-- `SP.DATL` (40_stream_parser.md R136): `sp_count - 1` modulo 65536, not tested here. DESIGN CHOICE: of the two
treatments of a zero or odd count in 93_implementation_defined.md U4 the model takes the 16-bit wrap (R141; assumption
log 21). -/
def spDatl (b : Byte) (s : State) : State :=
  setSp (resync b { s.sp with value := lowByte b, count := s.sp.count - 1, state := .dataHigh }) s

/-- `SP.DATH` (40_stream_parser.md R137): the event, and the end of the record. The end-of-frame address `0xFFFE` is
tested on the last cell only. DESIGN CHOICE: `sp_count` and `sp_address` wrap at 16 bits for every stream (R141,
93_implementation_defined.md U4; assumption log 21). -/
def spDath (b : Byte) (s : State) : State :=
  let v := addHighByte s.sp.value b
  let c := s.sp.count - 1
  if c = 0 then
    setSp (resync b { s.sp with value := v, count := c, state := .addressLow })
      (emitSp (if s.sp.address = 0xFFFE then .sync else .data s.sp.address v) s)
  else
    setSp (resync b { s.sp with value := v, count := c, address := s.sp.address + 2, state := .dataLow })
      (emitSp (.data s.sp.address v) s)

/-- One byte on `sp_in`: the operation `sp_state` selects (40_stream_parser.md R130, 30_encoding.md R107). -/
def spByte (b : Byte) (s : State) : State :=
  match s.sp.state with
  | .waitForSync => spWfs b s
  | .addressLow => spAddrl b s
  | .addressHigh => spAddrh b s
  | .countLow => spCntl b s
  | .countHigh => spCnth b s
  | .dataLow => spDatl b s
  | .dataHigh => spDath b s

/-- `SP.BUF` (40_stream_parser.md R139): the SP operation of each byte in order. -/
def spBytes : List Byte → State → State
  | [], s => s
  | b :: bs, s => spBytes bs (spByte b s)

/-- The meaning of `SP.WFS` (40_stream_parser.md R131). -/
def execSpWfs (b : Byte) (s : State) : Result := .next (spWfs b s)

/-- The meaning of `SP.ADDRL` (40_stream_parser.md R132). -/
def execSpAddrl (b : Byte) (s : State) : Result := .next (spAddrl b s)

/-- The meaning of `SP.ADDRH` (40_stream_parser.md R133). -/
def execSpAddrh (b : Byte) (s : State) : Result := .next (spAddrh b s)

/-- The meaning of `SP.CNTL` (40_stream_parser.md R134). -/
def execSpCntl (b : Byte) (s : State) : Result := .next (spCntl b s)

/-- The meaning of `SP.CNTH` (40_stream_parser.md R135). -/
def execSpCnth (b : Byte) (s : State) : Result := .next (spCnth b s)

/-- The meaning of `SP.DATL` (40_stream_parser.md R136). -/
def execSpDatl (b : Byte) (s : State) : Result := .next (spDatl b s)

/-- The meaning of `SP.DATH` (40_stream_parser.md R137). -/
def execSpDath (b : Byte) (s : State) : Result := .next (spDath b s)

/-- The meaning of `SP.RESYNC` performed alone (40_stream_parser.md R138; assumption log 10). -/
def execSpResync (b : Byte) (s : State) : Result := .next (setSp (resync b s.sp) s)

/-- The meaning of `SP.BUF` (40_stream_parser.md R139; assumption log 9). -/
def execSpBuf (bs : List Byte) (s : State) : Result := .next (spBytes bs s)

end Sys2Proof.Machine
end

