-- ==== Sys2Proof/Machine/System.lean ====
section
/-! DEFINITION. The operations of the whole block: `RESET` (70_reset_and_hazards.md R235) and the read-only `status` view
(10_state.md R48). -/

namespace Sys2Proof.Machine

/-- The meaning of `RESET` (70_reset_and_hazards.md R235): every register of the four units. It emits nothing, and what was
emitted stays emitted (R237, assumption log 3); the parameters and the agents are not SPC's state. -/
def execReset (s : State) : Result :=
  .next { s with sp := SpRegs.reset, rbQ := [], bc := BcRegs.reset, pp := PpRegs.reset }

/-- The code of `bc_fault` in the `status` view (60_exceptions.md R209). -/
def faultCode : BcFault → BitVec 2
  | .none => 0
  | .overflow => 1
  | .underflow => 2

/-- The fields of the `status` view (10_state.md R48). The state names stand as names: the spec requires no binary code of
them (assumption log 13). `ppDiscards` is absent without the counter (10_state.md R43). -/
structure StatusView where
  rbSize : Nat
  rbCapacity : Nat
  rbEmpty : Bool
  ready : Bool
  fault : BitVec 2
  rxState : BcRxState
  spState : SpState
  ppState : PpState
  ppDiscards : Option Nat
  deriving DecidableEq, Repr

/-- The level output `status` (10_state.md R48): a function of the state, so reading it changes none. -/
def statusView (s : State) : StatusView where
  rbSize := s.rbQ.length
  rbCapacity := s.params.capacity
  rbEmpty := s.rbQ.isEmpty
  ready := s.bc.ready
  fault := faultCode s.bc.fault
  rxState := s.bc.rxState
  spState := s.sp.state
  ppState := s.pp.state
  ppDiscards := if s.params.hasDiscardCounter then some s.pp.discards else none

end Sys2Proof.Machine
end

