-- ==== Sys2Proof/Machine/Dispatch.lean ====
section
/-! DEFINITION. One arm per operation: each a direct call of its meaning. -/

namespace Sys2Proof.Machine

def exec (i : Instr) (s : State) : Host.Outcome State Fault Refusal :=
  match i with
  | .spWfs b => Sys2Proof.Machine.execSpWfs b s
  | .spAddrl b => Sys2Proof.Machine.execSpAddrl b s
  | .spAddrh b => Sys2Proof.Machine.execSpAddrh b s
  | .spCntl b => Sys2Proof.Machine.execSpCntl b s
  | .spCnth b => Sys2Proof.Machine.execSpCnth b s
  | .spDatl b => Sys2Proof.Machine.execSpDatl b s
  | .spDath b => Sys2Proof.Machine.execSpDath b s
  | .spResync b => Sys2Proof.Machine.execSpResync b s
  | .spBuf bs => Sys2Proof.Machine.execSpBuf bs s
  | .rbPush b => Sys2Proof.Machine.execRbPush b s
  | .rbPushn bs => Sys2Proof.Machine.execRbPushn bs s
  | .rbPop => Sys2Proof.Machine.execRbPop s
  | .rbSize => Sys2Proof.Machine.execRbSize s
  | .rbCap => Sys2Proof.Machine.execRbCap s
  | .rbEmpty => Sys2Proof.Machine.execRbEmpty s
  | .bcIng bs => Sys2Proof.Machine.execBcIng bs s
  | .bcFlush => Sys2Proof.Machine.execBcFlush s
  | .bcRdy => Sys2Proof.Machine.execBcRdy s
  | .bcFull => Sys2Proof.Machine.execBcFull s
  | .bcDrcv => Sys2Proof.Machine.execBcDrcv s
  | .bcErr => Sys2Proof.Machine.execBcErr s
  | .bcMsg => Sys2Proof.Machine.execBcMsg s
  | .bcUnk b => Sys2Proof.Machine.execBcUnk b s
  | .bcMsize b => Sys2Proof.Machine.execBcMsize b s
  | .bcMdata b => Sys2Proof.Machine.execBcMdata b s
  | .ppStart b => Sys2Proof.Machine.execPpStart b s
  | .ppLeadin b => Sys2Proof.Machine.execPpLeadin b s
  | .ppAddr b => Sys2Proof.Machine.execPpAddr b s
  | .ppSize b => Sys2Proof.Machine.execPpSize b s
  | .ppData b => Sys2Proof.Machine.execPpData b s
  | .ppCksum b => Sys2Proof.Machine.execPpCksum b s
  | .reset => Sys2Proof.Machine.execReset s

end Sys2Proof.Machine
end

