-- ==== Sys2Proof/Machine/Step.lean ====
section
/-! DEFINITION. One step: the agent whose turn it is delivers its next event, and the operation that event selects is
performed whole (00_scope.md R8, 20_memory.md R72). -/

namespace Sys2Proof.Machine

/-- One input event: the operation it selects, or the event dropped (30_encoding.md R106, R108). -/
def perform (ev : Event) (s : State) : Result :=
  match decode ev s.selector with
  | .op i => exec i s
  | .dropped _ => .next s

/-- One step. With no event to deliver SPC is idle with all state held (60_exceptions.md R225). An instance with
parameters outside their ranges is refused (00_scope.md R6). -/
def step (s : State) : Host.Outcome State Fault Refusal :=
  if s.params.wf then
    match takeEvent s.env with
    | (some ev, e) => perform ev (setEnv e s)
    | (none, e) => .next (setEnv e s)
  else .refused .illegalParameters

/-- A run: events performed one after another (70_reset_and_hazards.md R256). -/
def runEvents : List Event → State → Result
  | [], s => .next s
  | ev :: evs, s =>
    match perform ev s with
    | .next t => runEvents evs t
    | r => r

/-- The state with a table word where `step` takes its next event (assumption log 8): the byte is the only event to come, on
`dev_rx`; BC awaits a notification, is not faulted, and has the status codes of the table. A word that
`decodeTableWord` refuses changes nothing. -/
def State.withFetchWord (s : State) (nbits w : Nat) : State :=
  if nbits = 8 ∧ w < 256 then
    { s with
      params := { s.params with
        stReady := Selector.ofTable.params.stReady
        stFull := Selector.ofTable.params.stFull
        stDataReceived := Selector.ofTable.params.stDataReceived
        stError := Selector.ofTable.params.stError
        stMessage := Selector.ofTable.params.stMessage }
      bc := { s.bc with rxState := .awaitingNotification, fault := .none }
      env := Env.ofEvents [.device (.drx (BitVec.ofNat 8 w))] }
  else s

end Sys2Proof.Machine
end

