-- ==== Sys2Proof/Machine/Circular.lean ====
section
/-! DEFINITION. The circular implementation of `rb_q` that 10_state.md R30 gives "for an implementer and not normative". It
is no part of State (assumption log 15). -/

namespace Sys2Proof.Machine

/-- `rb_mem`, `rb_rd` and `rb_size` (10_state.md R30). -/
structure Circular where
  mem : List Byte
  rd : Nat
  size : Nat
  deriving DecidableEq, Repr

/-- The ranges of R30, for `CAPACITY = mem.length`. -/
def Circular.wf (c : Circular) : Bool :=
  decide (0 < c.mem.length) && decide (c.rd < c.mem.length) && decide (c.size ≤ c.mem.length)

/-- `rb_mem[i]`; no index of a well-formed circular buffer is outside `rb_mem`. -/
def Circular.cell (c : Circular) (i : Nat) : Byte := c.mem.getD (i % c.mem.length) 0

/-- The queue represented: `rb_q[i] = rb_mem[(rb_rd + i) mod CAPACITY]`. -/
def Circular.queue (c : Circular) : List Byte := (List.range c.size).map fun i => c.cell (c.rd + i)

/-- Push one byte; none when the buffer is full. -/
def Circular.push (b : Byte) (c : Circular) : Option Circular :=
  if c.size = c.mem.length then none
  else some { c with mem := c.mem.set ((c.rd + c.size) % c.mem.length) b, size := c.size + 1 }

/-- Pop the oldest byte; none when the buffer is empty. -/
def Circular.pop (c : Circular) : Option (Byte × Circular) :=
  if c.size = 0 then none
  else some (c.cell c.rd, { c with rd := (c.rd + 1) % c.mem.length, size := c.size - 1 })

/-- After reset: `rb_rd = 0`, `rb_size = 0`, and any contents of `rb_mem` (93_implementation_defined.md U12). -/
def Circular.reset (mem : List Byte) : Circular := ⟨mem, 0, 0⟩

end Sys2Proof.Machine
end

