-- ==== Sys2Proof/Safety.lean ====
section
/-! DEFINITION. What counts as a safe run of SPC, and the words the statements use: the invariants of 10_state.md R53, the
credit, the bytes and events of a run, and well-formed records, packets, messages and frames. -/

namespace Sys2Proof.Machine

/-- The type and address byte that PP's registers hold: `(type << 5) | address` (30_encoding.md R104). -/
def typeAddressByte (r : PpRegs) : Byte := r.type ++ r.address

/-- The checksum of a packet (30_encoding.md R105): the type and address byte, the size byte and every data byte. -/
def packetChecksum (ta : Byte) (d : List Byte) : Byte := BitVec.ofNat 8 (ta.toNat + d.length + byteSum d)

/-- The invariants of 10_state.md R53, items 1 to 7, with the bounds on the storages (20_memory.md R70) and the empty
`pp_buf` of state `Size` (43_packet_parser.md R193) that make them inductive (assumption log 19). Item 8 speaks of two
states and is stated beside this. -/
structure Inv (s : State) : Prop where
  /-- Item 1. -/
  queue_fits : s.rbQ.length ≤ s.params.capacity
  /-- Item 2: while BC is not faulted, a set credit flag means the buffer is empty. -/
  credit_means_empty : s.bc.fault = .none → s.bc.ready = true → s.rbQ = []
  /-- Item 3, first sentence. -/
  message_data_iff : s.bc.rxState = .messageDataExpected ↔ s.bc.msgRemaining ≠ 0
  /-- Item 3, second sentence. -/
  message_buffer_empty : s.bc.rxState ≠ .messageDataExpected → s.bc.msgBuf = []
  /-- 10_state.md R34: the message accumulator holds at most 255 bytes. -/
  message_fits : s.bc.msgBuf.length + s.bc.msgRemaining.toNat ≤ 255
  /-- Item 4. -/
  sync_run_range : s.sp.syncRun.toNat ≤ 3
  /-- Item 5. -/
  packet_idle : s.pp.state = .start ∨ s.pp.state = .leadIn ∨ s.pp.state = .address →
    s.pp.type = 0 ∧ s.pp.address = 0 ∧ s.pp.size = 0 ∧ s.pp.remaining = 0 ∧ s.pp.sum = 0 ∧ s.pp.buf = []
  /-- Item 6, first clause. -/
  packet_data_iff : s.pp.state = .data ↔ s.pp.remaining ≠ 0
  /-- Item 6, second clause. -/
  packet_progress : s.pp.state = .data → s.pp.buf.length + s.pp.remaining.toNat = s.pp.size.toNat
  /-- Item 6, third clause. -/
  packet_complete : s.pp.state = .checksum → s.pp.buf.length = s.pp.size.toNat
  /-- 43_packet_parser.md R193: the payload is empty when the size byte is expected. -/
  packet_size_empty : s.pp.state = .size → s.pp.buf = []
  /-- 20_memory.md R70: a payload in progress is no longer than `PP_MAX_SIZE`. -/
  packet_fits : s.pp.state = .data ∨ s.pp.state = .checksum → s.pp.size.toNat ≤ s.params.ppMaxSize
  /-- Item 7, before the size byte. -/
  sum_before_size : s.pp.state = .size → s.pp.sum = typeAddressByte s.pp
  /-- Item 7, after the size byte. -/
  sum_after_size : s.pp.state = .data ∨ s.pp.state = .checksum →
    s.pp.sum = BitVec.ofNat 8 ((typeAddressByte s.pp).toNat + s.pp.size.toNat + byteSum s.pp.buf)

/-- The credit as a number: one token or none (00_scope.md glossary, "single-slot flow-control token"). -/
def credit (s : State) : Nat := if s.bc.ready then 1 else 0

/-- How many times a run of events performs `BC.RDY`. -/
def readies : List Event → State → Nat
  | [], _ => 0
  | ev :: evs, s =>
    (if decode ev s.selector = .op .bcRdy then 1 else 0) +
      match perform ev s with
      | .next t => readies evs t
      | _ => 0

/-- The bytes the bursts of a run carry, in order. -/
def ingressBytes : List Event → List Byte
  | [] => []
  | .ingress (.ing bs) :: evs => bs ++ ingressBytes evs
  | _ :: evs => ingressBytes evs

/-- The data bytes of an outbound frame (30_encoding.md R98): what stands between the size byte and the checksum. -/
def framePayload (p : Params) (f : List Byte) : List Byte := (f.drop (p.cmdHeader.length + 1)).dropLast

/-- A frame as 30_encoding.md R98 and R99 lay it out. -/
def IsOutboundFrame (p : Params) (f : List Byte) : Prop :=
  ∃ d : List Byte, 1 ≤ d.length ∧ d.length ≤ p.maxPayload ∧
    f = p.cmdHeader ++ [BitVec.ofNat 8 d.length] ++ d ++ [BitVec.ofNat 8 (d.length + byteSum d)]

/-- The first chunk of a queue: `take(min(len, MAX_PAYLOAD), rb_q)`. -/
def chunkOf (p : Params) (q : List Byte) : List Byte := q.take (min q.length p.maxPayload)

/-- The bytes of a packet with a given checksum byte (30_encoding.md R103). -/
def packetBytes (p : Params) (ta : Byte) (d : List Byte) (cks : Byte) : List Byte :=
  [p.ppStart, p.ppLeadin, ta, BitVec.ofNat 8 d.length] ++ d ++ [cks]

/-- Bytes on `pkt_rx`, in order. -/
def onPktRx (bs : List Byte) : List Event := bs.map fun b => .device (.prx b)

/-- Bytes on `dev_rx`, in order. -/
def onDevRx (bs : List Byte) : List Event := bs.map fun b => .device (.drx b)

/-- Bytes on `sp_in`, in order. -/
def onSpIn (bs : List Byte) : List Event := bs.map fun b => .ingress (.spb b)

/-- One bit of a byte flipped. -/
def flipBit (b : Byte) (k : Fin 8) : Byte := b ^^^ BitVec.twoPow 8 k

/-- The two bytes of a 16-bit field, low byte first (20_memory.md R61). -/
def halfBytes (h : Half) : List Byte := [h.extractLsb' 0 8, h.extractLsb' 8 8]

/-- The bytes of a record (30_encoding.md R91): address, count of data bytes, cells. -/
def recordBytes (a : Half) (cells : List Half) : List Byte :=
  halfBytes a ++ halfBytes (BitVec.ofNat 16 (2 * cells.length)) ++ cells.flatMap halfBytes

/-- The events of a record's cells (40_stream_parser.md R137): data events at addresses 2 apart, and `Sync` in place of
the last where that falls on `0xFFFE`. -/
def recordEvents (a : Half) : List Half → List SpEvent
  | [] => []
  | [v] => [if a = 0xFFFE then .sync else .data a v]
  | v :: w :: vs => .data a v :: recordEvents (a + 2) (w :: vs)

/-- No byte of the sequence is the fourth `0x55` of a run, when `run` of them were seen before it (40_stream_parser.md
R138): the parser is not resynchronised inside it. -/
def noMarker (run : Nat) : List Byte → Bool
  | [] => true
  | b :: bs => if b = 0x55 then decide (run < 3) && noMarker (run + 1) bs else noMarker 0 bs

/-- Operations performed one after another, by a caller (41_ring_buffer.md, RB modelled alone). -/
def runInstrs : List Instr → State → Result
  | [], s => .next s
  | i :: is, s =>
    match exec i s with
    | .next t => runInstrs is t
    | r => r

/-- A call of RB that adds or removes bytes (41_ring_buffer.md R150 to R152). -/
inductive RbCall where
  | push (b : Byte)
  | pushn (bs : List Byte)
  | pop
  deriving DecidableEq, Repr

/-- The operation a call performs. -/
def RbCall.instr : RbCall → Instr
  | .push b => .rbPush b
  | .pushn bs => .rbPushn bs
  | .pop => .rbPop

/-- The bytes a sequence of calls pushes, in order. -/
def bytesPushed : List RbCall → List Byte
  | [] => []
  | .push b :: cs => b :: bytesPushed cs
  | .pushn bs :: cs => bs ++ bytesPushed cs
  | .pop :: cs => bytesPushed cs

/-- A run holds no `RESET`. -/
def noReset (evs : List Event) : Bool := evs.all fun ev => decide (ev ≠ .host .reset)

/-- A run holds no byte on `dev_rx`. -/
def noDeviceByte : Event → Bool
  | .device (.drx _) => false
  | _ => true

/-- What the ingress agent delivers in a run. -/
def ingressPart (evs : List Event) : List IngressEvent :=
  evs.filterMap fun | .ingress e => some e | _ => none

/-- The bytes on `sp_in` of a run. -/
def spBytesOf : List Event → List Byte
  | [] => []
  | .ingress (.spb b) :: evs => b :: spBytesOf evs
  | _ :: evs => spBytesOf evs

/-- What the device agent delivers in a run. -/
def devicePart (evs : List Event) : List DeviceEvent :=
  evs.filterMap fun | .device e => some e | _ => none

/-- What the host delivers in a run. -/
def hostPart (evs : List Event) : List HostEvent :=
  evs.filterMap fun | .host e => some e | _ => none

end Sys2Proof.Machine
end

