-- ==== Sys2Proof/Certificates/Slice0/Obligations.lean ====
section
/-! DEFINITION. The statements about SPC, from the numbered rules of spec/. -/

open Sys2Proof Sys2Proof.Machine

/-! ### Reset -/

/-- 10_state.md R52: the value of every piece of state after reset, for an instance with any parameters; `State.reset` is
such an instance. -/
def Obligations.ResetHoldsTheResetValues : Prop :=
  (∀ p : Params,
    (State.resetWith p).sp = ⟨.waitForSync, 0, 0, 0, 0⟩ ∧
    (State.resetWith p).rbQ = [] ∧
    (State.resetWith p).bc = ⟨false, .awaitingNotification, 0, [], .none⟩ ∧
    (State.resetWith p).pp = ⟨.start, 0, 0, 0, 0, 0, [], 0⟩) ∧
  ∃ p : Params, State.reset = State.resetWith p

/-- 70_reset_and_hazards.md R235: `RESET` is selected in any state, the fault state too, writes every register and emits
nothing. That the logs keep what they hold is assumption log 3's reading of R237. -/
def Obligations.ResetWritesEveryRegister : Prop :=
  (∀ sel : Selector, decode (.host .reset) sel = .op .reset) ∧
  ∀ s : State, exec .reset s = .next { s with
    sp := ⟨.waitForSync, 0, 0, 0, 0⟩
    rbQ := []
    bc := ⟨false, .awaitingNotification, 0, [], .none⟩
    pp := ⟨.start, 0, 0, 0, 0, 0, [], 0⟩ }

/-! ### SP -/

/-- 40_stream_parser.md R131. -/
def Obligations.SpWfsIgnoresTheByte : Prop :=
  ∀ (b : Byte) (s : State),
    (s.sp.state = .waitForSync → decode (.ingress (.spb b)) s.selector = .op (.spWfs b)) ∧
    exec (.spWfs b) s = .next { s with sp := resync b s.sp }

/-- 40_stream_parser.md R132 and R133: the low byte loads the whole register, the high byte completes it, and the full
address is tested for `0x5555`. -/
def Obligations.SpAddressIsAssembled : Prop :=
  ∀ (b : Byte) (s : State),
    (s.sp.state = .addressLow → decode (.ingress (.spb b)) s.selector = .op (.spAddrl b)) ∧
    (s.sp.state = .addressHigh → decode (.ingress (.spb b)) s.selector = .op (.spAddrh b)) ∧
    exec (.spAddrl b) s = .next { s with
      sp := resync b { s.sp with address := BitVec.ofNat 16 b.toNat, state := .addressHigh } } ∧
    ∃ a : Half, a.toNat = (s.sp.address.toNat + b.toNat * 256) % 65536 ∧
      exec (.spAddrh b) s = .next { s with
        sp := resync b { s.sp with address := a, state := if a.toNat = 0x5555 then .waitForSync else .countLow } }

/-- 40_stream_parser.md R134 and R135: the same for the count; the next state is `DataLow` whatever the count. -/
def Obligations.SpCountIsAssembled : Prop :=
  ∀ (b : Byte) (s : State),
    (s.sp.state = .countLow → decode (.ingress (.spb b)) s.selector = .op (.spCntl b)) ∧
    (s.sp.state = .countHigh → decode (.ingress (.spb b)) s.selector = .op (.spCnth b)) ∧
    exec (.spCntl b) s = .next { s with
      sp := resync b { s.sp with count := BitVec.ofNat 16 b.toNat, state := .countHigh } } ∧
    ∃ c : Half, c.toNat = (s.sp.count.toNat + b.toNat * 256) % 65536 ∧
      exec (.spCnth b) s = .next { s with sp := resync b { s.sp with count := c, state := .dataLow } }

/-- 40_stream_parser.md R136: the count is decremented modulo 65536, as R136 writes it, and not tested. -/
def Obligations.SpDatlLoadsTheValueLowByte : Prop :=
  ∀ (b : Byte) (s : State),
    (s.sp.state = .dataLow → decode (.ingress (.spb b)) s.selector = .op (.spDatl b)) ∧
    ∃ c : Half, c.toNat = (s.sp.count.toNat + 65535) % 65536 ∧
      exec (.spDatl b) s = .next { s with
        sp := resync b { s.sp with value := BitVec.ofNat 16 b.toNat, count := c, state := .dataHigh } }

/-- 40_stream_parser.md R137: the event, and the end of the record; `0xFFFE` is tested on the last cell only. -/
def Obligations.SpDathEmitsTheCell : Prop :=
  ∀ (b : Byte) (s : State),
    (s.sp.state = .dataHigh → decode (.ingress (.spb b)) s.selector = .op (.spDath b)) ∧
    ∃ v c a : Half,
      v.toNat = (s.sp.value.toNat + b.toNat * 256) % 65536 ∧
      c.toNat = (s.sp.count.toNat + 65535) % 65536 ∧
      a.toNat = (s.sp.address.toNat + 2) % 65536 ∧
      exec (.spDath b) s = .next (if c.toNat = 0 then
        { s with
          sp := resync b { s.sp with value := v, count := c, state := .addressLow }
          out := { s.out with spEvt := s.out.spEvt ++
            [if s.sp.address.toNat = 0xFFFE then .sync else .data s.sp.address v] } }
      else
        { s with
          sp := resync b { s.sp with value := v, count := c, address := a, state := .dataLow }
          out := { s.out with spEvt := s.out.spEvt ++ [.data s.sp.address v] } })

/-- 40_stream_parser.md R138: the run counter, the forced `AddressLow` on the fourth `0x55`, and nothing else. -/
def Obligations.SpResyncCountsTheRun : Prop :=
  ∀ (b : Byte) (s : State),
    (b = 0x55 → s.sp.syncRun = 3 →
      exec (.spResync b) s = .next { s with sp := { s.sp with state := .addressLow, syncRun := 0 } }) ∧
    (b = 0x55 → s.sp.syncRun ≠ 3 → ∃ n : BitVec 2, n.toNat = s.sp.syncRun.toNat + 1 ∧
      exec (.spResync b) s = .next { s with sp := { s.sp with syncRun := n } }) ∧
    (b ≠ 0x55 → exec (.spResync b) s = .next { s with sp := { s.sp with syncRun := 0 } }) ∧
    ∀ r : SpRegs, exec (.spResync b) { s with sp := r } = .next { s with sp := resync b r }

/-- 40_stream_parser.md R139: `SP.BUF` is the SP operation of each byte in order, with no batching; a buffer split in two is
the same. That nothing of another agent stands between its bytes here is assumption log 9. -/
def Obligations.SpBufIsByteByByte : Prop :=
  ∀ (bs cs : List Byte) (s : State),
    (∃ t, exec (.spBuf bs) s = .next t ∧ runEvents (onSpIn bs) s = .next t ∧
      exec (.spBuf (bs ++ cs)) s = exec (.spBuf cs) t) ∧
    exec (.spBuf []) s = .next s

/-! ### RB -/

/-- 41_ring_buffer.md R150 and R151: a byte is appended or overflows; a burst is stored whole or not at all; one byte in a
burst is `RB.PUSH`, no byte is no operation. BC is not faulted (60_exceptions.md R212). -/
def Obligations.RbPushIsAllOrNothing : Prop :=
  ∀ (b : Byte) (bs : List Byte) (s : State), s.bc.fault = .none →
    (s.rbQ.length < s.params.capacity → exec (.rbPush b) s = .next { s with rbQ := s.rbQ ++ [b] }) ∧
    (s.rbQ.length = s.params.capacity →
      exec (.rbPush b) s = .next { s with bc := { s.bc with fault := .overflow } }) ∧
    (s.rbQ.length + bs.length ≤ s.params.capacity →
      exec (.rbPushn bs) s = .next { s with rbQ := s.rbQ ++ bs }) ∧
    (bs ≠ [] → s.params.capacity < s.rbQ.length + bs.length →
      exec (.rbPushn bs) s = .next { s with bc := { s.bc with fault := .overflow } }) ∧
    exec (.rbPushn []) s = .next s ∧ exec (.rbPushn [b]) s = exec (.rbPush b) s

/-- 41_ring_buffer.md, RB.POP. The byte returned stands in the model's own log `rbReply` (assumption log 4). -/
def Obligations.RbPopTakesTheOldestByte : Prop :=
  ∀ s : State, s.bc.fault = .none →
    (∀ (b : Byte) (q : List Byte), s.rbQ = b :: q →
      exec .rbPop s = .next { s with rbQ := q, out := { s.out with rbReply := s.out.rbReply ++ [.byte b] } }) ∧
    (s.rbQ = [] → exec .rbPop s = .next { s with bc := { s.bc with fault := .underflow } })

/-- 41_ring_buffer.md, RB.SIZE, RB.CAP and RB.EMPTY: pure queries, in every state. What they return stands in the model's
own log `rbReply` (assumption log 4). -/
def Obligations.RbQueriesArePure : Prop :=
  ∀ s : State,
    exec .rbSize s = .next { s with out := { s.out with rbReply := s.out.rbReply ++ [.size s.rbQ.length] } } ∧
    exec .rbCap s = .next { s with out := { s.out with rbReply := s.out.rbReply ++ [.capacity s.params.capacity] } } ∧
    exec .rbEmpty s = .next { s with
      out := { s.out with rbReply := s.out.rbReply ++ [.empty (decide (s.rbQ.length = 0))] } }

/-- 41_ring_buffer.md R156, the FIFO law: over any sequence of pushes, burst pushes and pops from an empty queue that
raises no fault, the bytes popped are the first of the bytes pushed and the queue is the rest. The popped bytes are read
from the model's own log `rbReply` (assumption log 4). -/
def Obligations.RbIsFirstInFirstOut : Prop :=
  ∀ (calls : List RbCall) (s t : State), s.rbQ = [] → t.bc.fault = .none →
    runInstrs (calls.map RbCall.instr) s = .next t →
    ∃ popped : List Byte, t.out.rbReply = s.out.rbReply ++ popped.map .byte ∧ popped ++ t.rbQ = bytesPushed calls

/-- The model's choice, assumption log 5: a push, a burst push and a pop performed by a caller while BC is faulted change
nothing, as 42_bus_controller.md, a faulted BC, has it for the events of the ports. -/
def Obligations.FaultedRingBufferDoesNothing : Prop :=
  ∀ (b : Byte) (bs : List Byte) (s : State), s.bc.fault ≠ .none →
    exec (.rbPush b) s = .next s ∧ exec (.rbPushn bs) s = .next s ∧ exec .rbPop s = .next s

/-! ### BC, outbound -/

/-- 42_bus_controller.md R165: fault check, then push, then flush of one chunk if the credit is held; an overflow stores
nothing and makes no flush even if the credit is held. -/
def Obligations.BcIngQueuesAndFlushes : Prop :=
  ∀ (bs : List Byte) (s : State), bs ≠ [] →
    (∀ sel : Selector, decode (.ingress (.ing bs)) sel = .op (.bcIng bs)) ∧
    (s.bc.fault ≠ .none → exec (.bcIng bs) s = .next s) ∧
    (s.bc.fault = .none → s.params.capacity < s.rbQ.length + bs.length →
      exec (.bcIng bs) s = .next { s with bc := { s.bc with fault := .overflow } }) ∧
    (s.bc.fault = .none → s.rbQ.length + bs.length ≤ s.params.capacity → s.bc.ready = false →
      exec (.bcIng bs) s = .next { s with rbQ := s.rbQ ++ bs }) ∧
    (s.bc.fault = .none → s.rbQ.length + bs.length ≤ s.params.capacity → s.bc.ready = true →
      exec (.bcIng bs) s = .next { s with
        rbQ := (s.rbQ ++ bs).drop (chunkOf s.params (s.rbQ ++ bs)).length
        bc := { s.bc with ready := false }
        out := { s.out with devTx := s.out.devTx ++ [outboundFrame s.params (chunkOf s.params (s.rbQ ++ bs))] } })

/-- 42_bus_controller.md R167: one frame with the first `min(len(rb_q), MAX_PAYLOAD)` bytes, the rest queued, the credit
spent; no event selects the operation. -/
def Obligations.BcFlushSendsOneChunk : Prop :=
  (∀ (ev : Event) (sel : Selector), decode ev sel ≠ .op .bcFlush) ∧
  ∀ s : State, s.bc.fault = .none → s.bc.ready = true → s.rbQ ≠ [] →
    exec .bcFlush s = .next { s with
      rbQ := s.rbQ.drop (min s.rbQ.length s.params.maxPayload)
      bc := { s.bc with ready := false }
      out := { s.out with devTx := s.out.devTx ++
        [s.params.cmdHeader ++ [BitVec.ofNat 8 (min s.rbQ.length s.params.maxPayload)] ++ chunkOf s.params s.rbQ ++
          [BitVec.ofNat 8 (min s.rbQ.length s.params.maxPayload + byteSum (chunkOf s.params s.rbQ))]] } }

/-- The model's choice, assumption logs 6 and 7: `BC.FLUSH` performed where its precondition fails, and a burst of no
bytes handed to `BC.ING`, change nothing. -/
def Obligations.NothingDueChangesNothing : Prop :=
  ∀ s : State,
    (s.bc.fault ≠ .none ∨ s.bc.ready = false ∨ s.rbQ = [] → exec .bcFlush s = .next s) ∧
    exec (.bcIng []) s = .next s

/-- 30_encoding.md R98 and R99: whatever event an instance with legal parameters performs, `dev_tx` gains nothing or one
frame of that layout, with `1 <= n <= MAX_PAYLOAD`. -/
def Obligations.FramesAreWellFormed : Prop :=
  ∀ (ev : Event) (s t : State), s.params.wf = true → perform ev s = .next t →
    t.out.devTx = s.out.devTx ∨
      ∃ f : List Byte, IsOutboundFrame s.params f ∧ t.out.devTx = s.out.devTx ++ [f]

/-! ### BC, inbound -/

/-- 42_bus_controller.md R168. -/
def Obligations.BcRdyGrantsAndSpendsTheCredit : Prop :=
  ∀ s : State,
    (s.bc.fault = .none → s.bc.rxState = .awaitingNotification →
      decode (.device (.drx s.params.stReady)) s.selector = .op .bcRdy) ∧
    (s.bc.fault ≠ .none → exec .bcRdy s = .next s) ∧
    (s.bc.fault = .none → s.rbQ = [] → exec .bcRdy s = .next { s with bc := { s.bc with ready := true } }) ∧
    (s.bc.fault = .none → s.rbQ ≠ [] → exec .bcRdy s = .next { s with
      rbQ := s.rbQ.drop (chunkOf s.params s.rbQ).length
      bc := { s.bc with ready := false }
      out := { s.out with devTx := s.out.devTx ++ [outboundFrame s.params (chunkOf s.params s.rbQ)] } })

/-- 42_bus_controller.md R169 and R171: both codes withdraw the credit and do nothing else. -/
def Obligations.BcFullAndErrWithdrawTheCredit : Prop :=
  ∀ s : State,
    (s.params.wf = true → s.bc.fault = .none → s.bc.rxState = .awaitingNotification →
      decode (.device (.drx s.params.stFull)) s.selector = .op .bcFull ∧
      decode (.device (.drx s.params.stError)) s.selector = .op .bcErr) ∧
    (s.bc.fault ≠ .none → exec .bcFull s = .next s ∧ exec .bcErr s = .next s) ∧
    (s.bc.fault = .none →
      exec .bcFull s = .next { s with bc := { s.bc with ready := false } } ∧
      exec .bcErr s = .next { s with bc := { s.bc with ready := false } })

/-- 42_bus_controller.md R170 and R173: neither writes any state. -/
def Obligations.BcDrcvAndUnkChangeNothing : Prop :=
  ∀ (b : Byte) (s : State),
    (s.params.wf = true → s.bc.fault = .none → s.bc.rxState = .awaitingNotification →
      decode (.device (.drx s.params.stDataReceived)) s.selector = .op .bcDrcv) ∧
    (b ∉ s.params.statusCodes → s.bc.fault = .none → s.bc.rxState = .awaitingNotification →
      decode (.device (.drx b)) s.selector = .op (.bcUnk b)) ∧
    exec .bcDrcv s = .next s ∧ exec (.bcUnk b) s = .next s

/-- 42_bus_controller.md R172. -/
def Obligations.BcMsgExpectsTheSize : Prop :=
  ∀ s : State,
    (s.params.wf = true → s.bc.fault = .none → s.bc.rxState = .awaitingNotification →
      decode (.device (.drx s.params.stMessage)) s.selector = .op .bcMsg) ∧
    (s.bc.fault ≠ .none → exec .bcMsg s = .next s) ∧
    (s.bc.fault = .none → exec .bcMsg s = .next { s with bc := { s.bc with rxState := .messageSizeExpected } })

/-- 42_bus_controller.md R174: any byte is a size here; size 0 emits an empty command at once. -/
def Obligations.BcMsizeTakesTheSize : Prop :=
  ∀ (b : Byte) (s : State),
    (s.bc.fault = .none → s.bc.rxState = .messageSizeExpected →
      decode (.device (.drx b)) s.selector = .op (.bcMsize b)) ∧
    (s.bc.fault ≠ .none → exec (.bcMsize b) s = .next s) ∧
    (s.bc.fault = .none → b.toNat = 0 → exec (.bcMsize b) s = .next { s with
      bc := { s.bc with rxState := .awaitingNotification }
      out := { s.out with cmdOut := s.out.cmdOut ++ [⟨[]⟩] } }) ∧
    (s.bc.fault = .none → b.toNat ≠ 0 → exec (.bcMsize b) s = .next { s with
      bc := { s.bc with msgRemaining := b, msgBuf := [], rxState := .messageDataExpected } })

/-- 42_bus_controller.md R175: any byte is data here, a status code too; the last one hands the message over. -/
def Obligations.BcMdataCollectsTheMessage : Prop :=
  ∀ (b : Byte) (s : State),
    (s.bc.fault = .none → s.bc.rxState = .messageDataExpected →
      decode (.device (.drx b)) s.selector = .op (.bcMdata b)) ∧
    (s.bc.fault ≠ .none → exec (.bcMdata b) s = .next s) ∧
    (s.bc.fault = .none → ∃ n : Byte, n.toNat = (s.bc.msgRemaining.toNat + 255) % 256 ∧
      (n.toNat = 0 → exec (.bcMdata b) s = .next { s with
        bc := { s.bc with msgRemaining := n, msgBuf := [], rxState := .awaitingNotification }
        out := { s.out with cmdOut := s.out.cmdOut ++ [⟨s.bc.msgBuf ++ [b]⟩] } }) ∧
      (n.toNat ≠ 0 → exec (.bcMdata b) s = .next { s with
        bc := { s.bc with msgRemaining := n, msgBuf := s.bc.msgBuf ++ [b] } }))

/-- 30_encoding.md R101 and R102: a message start, a size byte and that many data bytes become one command of those bytes,
unchanged and in order, whatever the bytes are; nothing else changes. Between messages BC's message registers are as 10_state.md R53
item 3 has them. -/
def Obligations.MessageBecomesACommand : Prop :=
  ∀ (d : List Byte) (s : State), s.params.wf = true → s.bc.fault = .none →
    s.bc.rxState = .awaitingNotification → s.bc.msgRemaining = 0 → s.bc.msgBuf = [] → d.length ≤ 255 →
    runEvents (onDevRx ([s.params.stMessage, BitVec.ofNat 8 d.length] ++ d)) s =
      .next { s with out := { s.out with cmdOut := s.out.cmdOut ++ [⟨d⟩] } }

/-! ### PP -/

/-- 43_packet_parser.md R191 and R192, with the clear of R197: bytes before the start marker are skipped; a byte that is not
the lead-in marker is consumed, clears PP and is not counted. -/
def Obligations.PpLooksForTheMarkers : Prop :=
  ∀ (b : Byte) (s : State),
    (s.pp.state = .start → decode (.device (.prx b)) s.selector = .op (.ppStart b)) ∧
    (b = s.params.ppStart → exec (.ppStart b) s = .next { s with pp := { s.pp with state := .leadIn } }) ∧
    (b ≠ s.params.ppStart → exec (.ppStart b) s = .next s) ∧
    (s.pp.state = .leadIn → decode (.device (.prx b)) s.selector = .op (.ppLeadin b)) ∧
    (b = s.params.ppLeadin → exec (.ppLeadin b) s = .next { s with pp := { s.pp with state := .address } }) ∧
    (b ≠ s.params.ppLeadin → exec (.ppLeadin b) s = .next { s with pp := ⟨.start, 0, 0, 0, 0, 0, [], s.pp.discards⟩ })

/-- 43_packet_parser.md R193: bits 7 to 5 and 4 to 0, and the seed of the checksum. -/
def Obligations.PpAddrSplitsTheByte : Prop :=
  ∀ (b : Byte) (s : State),
    (s.pp.state = .address → decode (.device (.prx b)) s.selector = .op (.ppAddr b)) ∧
    ∃ (ty : BitVec 3) (ad : BitVec 5), ty.toNat = b.toNat / 32 ∧ ad.toNat = b.toNat % 32 ∧
      exec (.ppAddr b) s = .next { s with
        pp := { s.pp with type := ty, address := ad, sum := b, buf := [], state := .size } }

/-- 43_packet_parser.md R194: an oversize is discarded and counted before any other write; size 0 goes to the checksum. -/
def Obligations.PpSizeAcceptsOrDiscards : Prop :=
  ∀ (b : Byte) (s : State),
    (s.pp.state = .size → decode (.device (.prx b)) s.selector = .op (.ppSize b)) ∧
    (s.params.ppMaxSize < b.toNat → exec (.ppSize b) s = .next { s with
      pp := ⟨.start, 0, 0, 0, 0, 0, [], s.pp.discards + if s.params.hasDiscardCounter then 1 else 0⟩ }) ∧
    (b.toNat ≤ s.params.ppMaxSize → ∃ c : Byte, c.toNat = (s.pp.sum.toNat + b.toNat) % 256 ∧
      (b.toNat = 0 → exec (.ppSize b) s = .next { s with pp := { s.pp with size := b, sum := c, state := .checksum } }) ∧
      (b.toNat ≠ 0 → exec (.ppSize b) s = .next { s with
        pp := { s.pp with size := b, sum := c, remaining := b, state := .data } }))

/-- 43_packet_parser.md R195: any byte is payload here, a marker too. -/
def Obligations.PpDataCollectsThePayload : Prop :=
  ∀ (b : Byte) (s : State),
    (s.pp.state = .data → decode (.device (.prx b)) s.selector = .op (.ppData b)) ∧
    ∃ c n : Byte, c.toNat = (s.pp.sum.toNat + b.toNat) % 256 ∧ n.toNat = (s.pp.remaining.toNat + 255) % 256 ∧
      exec (.ppData b) s = .next { s with pp := { s.pp with
        buf := s.pp.buf ++ [b], sum := c, remaining := n,
        state := if n.toNat = 0 then .checksum else s.pp.state } }

/-- 43_packet_parser.md R196, with the clear of R197: emit on an exact match, else discard silently and count. -/
def Obligations.PpCksumEmitsOrDiscards : Prop :=
  ∀ (b : Byte) (s : State),
    (s.pp.state = .checksum → decode (.device (.prx b)) s.selector = .op (.ppCksum b)) ∧
    (b = s.pp.sum → exec (.ppCksum b) s = .next { s with
      pp := ⟨.start, 0, 0, 0, 0, 0, [], s.pp.discards⟩
      out := { s.out with pktOut := s.out.pktOut ++ [⟨s.pp.type, s.pp.address, s.pp.buf⟩] } }) ∧
    (b ≠ s.pp.sum → exec (.ppCksum b) s = .next { s with
      pp := ⟨.start, 0, 0, 0, 0, 0, [], s.pp.discards + if s.params.hasDiscardCounter then 1 else 0⟩ })

/-- 30_encoding.md R103 to R105: a packet with its checksum, begun in `Start`, is emitted with its type, its address and its
payload, and PP is back in `Start`. -/
def Obligations.GoodPacketIsEmitted : Prop :=
  ∀ (ta : Byte) (d : List Byte) (s : State), s.pp.state = .start →
    d.length ≤ s.params.ppMaxSize → s.params.ppMaxSize ≤ 255 →
    ∃ (ty : BitVec 3) (ad : BitVec 5), ty.toNat = ta.toNat / 32 ∧ ad.toNat = ta.toNat % 32 ∧
      runEvents (onPktRx (packetBytes s.params ta d (packetChecksum ta d))) s = .next { s with
        pp := ⟨.start, 0, 0, 0, 0, 0, [], s.pp.discards⟩
        out := { s.out with pktOut := s.out.pktOut ++ [⟨ty, ad, d⟩] } }

/-- 43_packet_parser.md R198: any single bit of the payload or of the checksum byte flipped, and the packet is rejected with
no output and PP is back in its initial state. -/
def Obligations.BitFlipRejectsThePacket : Prop :=
  ∀ (ta : Byte) (d : List Byte) (k : Fin 8) (s : State), s.pp.state = .start →
    d.length ≤ s.params.ppMaxSize → s.params.ppMaxSize ≤ 255 →
    (∀ (pre post : List Byte) (x : Byte), d = pre ++ x :: post →
      runEvents (onPktRx (packetBytes s.params ta (pre ++ flipBit x k :: post) (packetChecksum ta d))) s = .next { s with
        pp := ⟨.start, 0, 0, 0, 0, 0, [], s.pp.discards + if s.params.hasDiscardCounter then 1 else 0⟩ }) ∧
    runEvents (onPktRx (packetBytes s.params ta d (flipBit (packetChecksum ta d) k))) s = .next { s with
      pp := ⟨.start, 0, 0, 0, 0, 0, [], s.pp.discards + if s.params.hasDiscardCounter then 1 else 0⟩ }

/-! ### Records of the simulator's stream -/

/-- 30_encoding.md R91 and 40_stream_parser.md R137: a record of 1 to 32768 cells, begun in `AddressLow`, whose bytes hold no fourth consecutive
`0x55`, emits its cells in order and returns SP to `AddressLow`. That 32768 cells, whose count field is 0, and a record that
runs past `0xFFFE` are covered rests on the 16-bit wrap (assumption log 21). -/
def Obligations.RecordIsDecoded : Prop :=
  ∀ (a : Half) (cells : List Half) (s : State), s.sp.state = .addressLow → a ≠ 0x5555 → cells ≠ [] →
    cells.length ≤ 32768 → noMarker s.sp.syncRun.toNat (recordBytes a cells) = true →
    ∃ t : State, runEvents (onSpIn (recordBytes a cells)) s = .next t ∧
      t.out = { s.out with spEvt := s.out.spEvt ++ recordEvents a cells } ∧
      t.sp.state = .addressLow ∧ t.params = s.params ∧ t.rbQ = s.rbQ ∧ t.bc = s.bc ∧ t.pp = s.pp

/-- 40_stream_parser.md R140: the state and the run after `n` bytes `0x55` from `WaitForSync`. -/
def Obligations.SyncRunLengths : Prop :=
  ∀ (n : Nat) (s : State), s.sp.state = .waitForSync → s.sp.syncRun = 0 →
    ∃ t : State, runEvents (onSpIn (List.replicate n 0x55)) s = .next t ∧
      t.sp.syncRun.toNat = n % 4 ∧ t.out = s.out ∧
      t.sp.state = (if n < 4 then .waitForSync
        else if n % 4 = 0 then .addressLow
        else if n % 4 = 1 then .addressHigh
        else .waitForSync)

/-- 40_stream_parser.md R138 and R142, the source's resync property: whatever state SP is in and whatever stands in its
registers, once a byte other than `0x55` has been seen, four bytes `0x55` leave it in `AddressLow` with the run at 0. -/
def Obligations.MarkerResynchronises : Prop :=
  ∀ (b : Byte) (s : State), b ≠ 0x55 →
    ∃ t : State, runEvents (onSpIn ([b] ++ List.replicate 4 0x55)) s = .next t ∧
      t.sp.state = .addressLow ∧ t.sp.syncRun = 0

/-- 40_stream_parser.md R141: in a record with an odd count the record never ends: after any whole number of cells without
a sync marker SP is in `DataLow`, the count is odd, and every event was a data event. It rests on the 16-bit wrap of
the count (assumption log 21). -/
def Obligations.OddCountNeverEnds : Prop :=
  ∀ (cells : List (Byte × Byte)) (s : State), s.sp.state = .dataLow → s.sp.count.toNat % 2 = 1 →
    noMarker s.sp.syncRun.toNat (cells.flatMap fun c => [c.1, c.2]) = true →
    ∃ (t : State) (evs : List SpEvent),
      runEvents (onSpIn (cells.flatMap fun c => [c.1, c.2])) s = .next t ∧
      t.sp.state = .dataLow ∧ t.sp.count.toNat % 2 = 1 ∧
      t.out.spEvt = s.out.spEvt ++ evs ∧ evs.length = cells.length ∧ .sync ∉ evs

/-! ### The step -/

/-- 00_scope.md R8, R9: a step with an event to deliver performs the operation that event selects, on the state with the event
taken; an event that selects none is dropped (30_encoding.md R108). With no agent scheduled SPC is idle with all state held
(60_exceptions.md R225). How events wait and agents take turns is the model's choice (assumption log 2). -/
def Obligations.StepRunsTheSelectedOperation : Prop :=
  ∀ s : State, s.params.wf = true →
    (∀ (ev : Event) (e : Env), s.env = e.cons ev →
      (∀ i : Instr, decode ev s.selector = .op i → step s = exec i { s with env := e }) ∧
      (∀ why : Reject, decode ev s.selector = .dropped why → step s = .next { s with env := e })) ∧
    (s.env.schedule = [] → step s = .next s)

/-- 00_scope.md R6: parameters outside their ranges are refused; legal ones never are, and then every step answers a next
state. -/
def Obligations.OnlyLegalParametersRun : Prop :=
  ∀ s : State,
    ((1 ≤ s.params.capacity ∧ 1 ≤ s.params.maxPayload ∧ s.params.maxPayload ≤ 255 ∧ s.params.cmdHeader ≠ [] ∧
        s.params.ppMaxSize ≤ 255 ∧ [s.params.stReady, s.params.stFull, s.params.stDataReceived, s.params.stError,
          s.params.stMessage].Nodup) →
      ∃ t, step s = .next t) ∧
    (¬(1 ≤ s.params.capacity ∧ 1 ≤ s.params.maxPayload ∧ s.params.maxPayload ≤ 255 ∧ s.params.cmdHeader ≠ [] ∧
        s.params.ppMaxSize ≤ 255 ∧ [s.params.stReady, s.params.stFull, s.params.stDataReceived, s.params.stError,
          s.params.stMessage].Nodup) →
      step s = .refused .illegalParameters)

/-- 30_encoding.md R111: no byte on any port in any state makes SPC trap: every event is performed and answers a next state. -/
def Obligations.EveryEventCompletes : Prop :=
  ∀ (ev : Event) (s : State), ∃ t : State, perform ev s = .next t ∧ t.params = s.params ∧ t.env = s.env

/-- 70_reset_and_hazards.md R256: a program of events placed in the environment is performed in its order, one event a
step, and nothing is left over. How a program is placed is the model's choice (assumption log 2). -/
def Obligations.PlacedProgramRunsInOrder : Prop :=
  ∀ (evs : List Event) (s : State), s.params.wf = true →
    Host.Core.run Sys2Proof.core evs.length (withEvents evs s) = runEvents evs { s with env := Env.empty }

/-- 20_memory.md R72 and R75: whatever the agents have to deliver and however they are scheduled, `n` steps are some total
order of operations, in which each agent's events are delivered in that agent's order. -/
def Obligations.AgentsAreSerialised : Prop :=
  ∀ (n : Nat) (s : State), s.params.wf = true →
    ∃ (evs : List Event) (t : State), evs.length ≤ n ∧
      Host.Core.run Sys2Proof.core n s = .next t ∧
      runEvents evs { s with env := t.env } = .next t ∧
      s.env.ingress = ingressPart evs ++ t.env.ingress ∧
      s.env.device = devicePart evs ++ t.env.device ∧
      s.env.host = hostPart evs ++ t.env.host

/-! ### Selection -/

/-- Bytes written out from 30_encoding.md R100, R103 and R107 to R110, and what they select. -/
def Obligations.WrittenBytesSelect : Prop :=
  decodeTableWord 8 0x72 = some .bcRdy ∧ decodeTableWord 8 0x74 = some .bcFull ∧
  decodeTableWord 8 0x76 = some .bcDrcv ∧ decodeTableWord 8 0x78 = some .bcErr ∧
  decodeTableWord 8 0x6D = some .bcMsg ∧ decodeTableWord 8 0x99 = some (.bcUnk 0x99) ∧
  decode (.ingress (.spb 0x55)) State.reset.selector = .op (.spWfs 0x55) ∧
  decode (.device (.prx 0xBB)) State.reset.selector = .op (.ppStart 0xBB) ∧
  decode (.ingress (.ing [1, 2, 3])) State.reset.selector = .op (.bcIng [1, 2, 3])

/-- 30_encoding.md R106 to R110, encoder to decoder: the event that encodes an operation, arriving in the state the encoding
asks for, selects that operation, with every operand. -/
def Obligations.DecodeOfEncode : Prop :=
  ∀ (i : Instr) (e : Encoding) (sel : Selector), sel.params.wf = true → i.wf sel.params = true →
    encode sel.params i = some e → sel.admits e.home = true → decode e.event sel = .op i

/-- 30_encoding.md R106, decoder to encoder: an event that selects an operation is that operation's encoding, in the state
the encoding asks for; so an event selects exactly one operation and no two share an encoding. The operation is well
formed, but for a burst of no bytes. -/
def Obligations.EncodeOfDecode : Prop :=
  ∀ (ev : Event) (sel : Selector) (i : Instr), decode ev sel = .op i →
    (∃ h : Home, encode sel.params i = some ⟨ev, h⟩ ∧ sel.admits h = true) ∧
    (ev ≠ .ingress (.ing []) → i.wf sel.params = true)

/-- 30_encoding.md R107, R110, R114: the operations that no event selects are exactly those without an encoding, and the one
event that selects nothing is a byte on `dev_rx` of a faulted BC (R108). -/
def Obligations.InternalOperationsAreNotSelected : Prop :=
  (∀ (p : Params) (i : Instr), encode p i = none ↔
    ((∃ b, i = .spResync b) ∨ (∃ bs, i = .spBuf bs) ∨ (∃ b, i = .rbPush b) ∨ (∃ bs, i = .rbPushn bs) ∨
      i = .rbPop ∨ i = .bcFlush)) ∧
  (∀ (ev : Event) (sel : Selector) (p : Params) (i : Instr), decode ev sel = .op i → encode p i ≠ none) ∧
  (∀ (ev : Event) (sel : Selector), (∃ why, decode ev sel = .dropped why) ↔
    (sel.halted = true ∧ ∃ b, ev = .device (.drx b)))

/-- 30_encoding.md R113, R114: what each line of the text notation expands to. -/
def Obligations.TextLinesExpand : Prop :=
  ∀ (r : RxRoute) (b : Byte) (bs : List Byte),
    Line.events r .reset = [.host .reset] ∧
    Line.events r (.spb b) = [.ingress (.spb b)] ∧
    Line.events r (.ing bs) = [.ingress (.ing bs)] ∧
    Line.events r (.drx b) = [.device (.drx b)] ∧
    Line.events r (.prx b) = [.device (.prx b)] ∧
    Line.events r (.spbuf (b :: bs)) = Line.events r (.spb b) ++ Line.events r (.spbuf bs) ∧
    Line.events r (.dgram bs) = Line.events r (.spbuf bs) ++ Line.events r (.ing bs) ∧
    Line.events .toBC (.ser b) = Line.events r (.drx b) ∧
    Line.events .toPP (.ser b) = Line.events r (.prx b) ∧
    Line.events .toBoth (.ser b) = Line.events r (.drx b) ++ Line.events r (.prx b) ∧
    Line.events r (.drxbuf (b :: bs)) = Line.events r (.drx b) ++ Line.events r (.drxbuf bs) ∧
    Line.events r (.prxbuf (b :: bs)) = Line.events r (.prx b) ++ Line.events r (.prxbuf bs) ∧
    Line.events r (.spbuf []) = [] ∧ Line.events r (.drxbuf []) = [] ∧ Line.events r (.prxbuf []) = []

/-! ### Invariants -/

/-- 10_state.md R53: every step keeps the invariants; and a fault, with the state of BC and RB, keeps its value until
`RESET` (item 8). -/
def Obligations.StepKeepsTheInvariants : Prop :=
  ∀ s t : State, Inv s → step s = .next t →
    Inv t ∧
    (s.bc.fault ≠ .none → (takeEvent s.env).1 ≠ some (.host .reset) → t.rbQ = s.rbQ ∧ t.bc = s.bc)

/-- 10_state.md R53: the invariants hold after `RESET`, and at reset whatever the parameters. -/
def Obligations.ResetMeetsTheInvariants : Prop :=
  (∀ p : Params, Inv (State.resetWith p)) ∧ ∀ s t : State, exec .reset s = .next t → Inv t

/-- 44_operation_classes.md R260: the sum of a 16-bit register and a high byte never wraps, because the state in which it runs
is entered only by the low-byte operation: a register awaiting its high byte is below 256, and every step keeps it so. -/
def Obligations.HighByteNeverCarries : Prop :=
  ∀ s t : State,
    ((s.sp.state = .addressHigh → s.sp.address.toNat < 256) ∧ (s.sp.state = .countHigh → s.sp.count.toNat < 256) ∧
      (s.sp.state = .dataHigh → s.sp.value.toNat < 256)) →
    step s = .next t →
    (t.sp.state = .addressHigh → t.sp.address.toNat < 256) ∧ (t.sp.state = .countHigh → t.sp.count.toNat < 256) ∧
      (t.sp.state = .dataHigh → t.sp.value.toNat < 256)

/-! ### Faults -/

/-- 42_bus_controller.md R179: while `bc_fault` is not `None`, every event on `ing` and `dev_rx` changes nothing and emits
nothing; only `RESET` ends this; SP and PP go on as if there were no fault. -/
def Obligations.FaultedBusControllerIsDeaf : Prop :=
  ∀ s : State, s.bc.fault ≠ .none →
    (∀ bs : List Byte, perform (.ingress (.ing bs)) s = .next s) ∧
    (∀ b : Byte, perform (.device (.drx b)) s = .next s) ∧
    (∀ (ev : Event) (t : State), perform ev s = .next t → (t.bc.fault = .none ↔ ev = .host .reset)) ∧
    (∀ (b : Byte) (t : State),
      (perform (.ingress (.spb b)) { s with bc := { s.bc with fault := .none } } = .next t →
        perform (.ingress (.spb b)) s = .next { t with bc := s.bc }) ∧
      (perform (.device (.prx b)) { s with bc := { s.bc with fault := .none } } = .next t →
        perform (.device (.prx b)) s = .next { t with bc := s.bc }))

/-- 44_operation_classes.md R264: of the events, only a burst on `ing` raises a fault, it raises `Overflow`, and it does so
exactly when it does not fit; `Underflow` is never raised. -/
def Obligations.FaultsComeFromIngressOnly : Prop :=
  ∀ (ev : Event) (s t : State), s.bc.fault = .none → perform ev s = .next t →
    t.bc.fault ≠ .underflow ∧
    (t.bc.fault = .overflow ↔
      ∃ bs : List Byte, bs ≠ [] ∧ ev = .ingress (.ing bs) ∧ s.params.capacity < s.rbQ.length + bs.length)

/-! ### The credit protocol -/

/-- 42_bus_controller.md R178: no rule sets `bc_ready` but `BC.RDY`: an event after which the credit is held and before
which it was not is the ready byte of a running BC that awaits a notification. -/
def Obligations.OnlyReadyGrantsCredit : Prop :=
  ∀ (ev : Event) (s t : State), s.bc.ready = false → perform ev s = .next t → t.bc.ready = true →
    ev = .device (.drx s.params.stReady) ∧ s.bc.fault = .none ∧ s.bc.rxState = .awaitingNotification

/-- 60_exceptions.md R226 and 42_bus_controller.md R178: with no credit, a run in which the device sends no byte to BC sends nothing, however long. -/
def Obligations.NoReadyNoFrame : Prop :=
  ∀ (evs : List Event) (s t : State), s.bc.ready = false → evs.all noDeviceByte = true →
    runEvents evs s = .next t → t.out.devTx = s.out.devTx ∧ t.bc.ready = false

/-- 42_bus_controller.md R176: over any run, each frame spends a credit that a `BC.RDY` of its own granted: the frames sent,
and the credit held at the end, are no more than the `BC.RDY` performed and the credit held at the start. -/
def Obligations.FramesAreBoundedByReadies : Prop :=
  ∀ (evs : List Event) (s t : State), runEvents evs s = .next t →
    t.out.devTx.length + credit t ≤ s.out.devTx.length + readies evs s + credit s

/-- 20_memory.md R73: over any run without `RESET` at the end of which BC is not faulted, the data of the frames sent, followed by
what is still queued, is what was queued before, followed by the bursts of the run: no byte dropped, duplicated or
reordered. -/
def Obligations.IngressBytesAreConserved : Prop :=
  ∀ (evs : List Event) (s t : State), s.params.wf = true → noReset evs = true →
    runEvents evs s = .next t → t.bc.fault = .none →
    ∃ frames : List (List Byte), t.out.devTx = s.out.devTx ++ frames ∧
      (frames.map (framePayload s.params)).flatten ++ t.rbQ = s.rbQ ++ ingressBytes evs

/-- 20_memory.md, order between agents: a ready and a burst that arrive together, with no credit held, send exactly one frame in
either order; the same frame if the queue was empty, and otherwise with the ready first a frame of old bytes only, the burst
staying queued. That no credit is held before is the premise the rule leaves unsaid (assumption log 20). -/
def Obligations.ReadyAndBurstInEitherOrder : Prop :=
  ∀ (bs : List Byte) (s : State), bs ≠ [] → s.params.wf = true → s.bc.fault = .none → s.bc.ready = false →
    s.bc.rxState = .awaitingNotification → s.rbQ.length + bs.length ≤ s.params.capacity →
    ∃ t u : State,
      runEvents [.device (.drx s.params.stReady), .ingress (.ing bs)] s = .next t ∧
      runEvents [.ingress (.ing bs), .device (.drx s.params.stReady)] s = .next u ∧
      t.bc.ready = false ∧ u.bc.ready = false ∧
      u.out.devTx = s.out.devTx ++ [outboundFrame s.params (chunkOf s.params (s.rbQ ++ bs))] ∧
      (s.rbQ = [] → t = u) ∧
      (s.rbQ ≠ [] → t.out.devTx = s.out.devTx ++ [outboundFrame s.params (chunkOf s.params s.rbQ)] ∧
        t.rbQ = s.rbQ.drop (chunkOf s.params s.rbQ).length ++ bs)

/-! ### Separation of the units -/

/-- 10_state.md R45: an SP operation writes SP registers only, a PP operation PP registers only, a BC or RB operation BC and
RB state only; and each emits on its unit's ports only. -/
def Obligations.UnitsShareNoState : Prop :=
  ∀ (s t : State),
    (∀ b : Byte, perform (.ingress (.spb b)) s = .next t →
      t = { s with sp := t.sp, out := { s.out with spEvt := t.out.spEvt } }) ∧
    (∀ bs : List Byte, perform (.ingress (.ing bs)) s = .next t →
      t = { s with
        rbQ := t.rbQ, bc := { s.bc with ready := t.bc.ready, fault := t.bc.fault },
        out := { s.out with devTx := t.out.devTx } }) ∧
    (∀ b : Byte, perform (.device (.drx b)) s = .next t →
      t = { s with rbQ := t.rbQ, bc := t.bc, out := { s.out with devTx := t.out.devTx, cmdOut := t.out.cmdOut } }) ∧
    (∀ b : Byte, perform (.device (.prx b)) s = .next t →
      t = { s with pp := t.pp, out := { s.out with pktOut := t.out.pktOut } }) ∧
    (∀ q : RbQuery, perform (.host (.query q)) s = .next t →
      t = { s with out := { s.out with rbReply := t.out.rbReply } })

/-- 10_state.md R45, read as a two-run property: what SP does on a run of events depends on SP's registers alone: two
machines that agree on them, and differ in anything else, still agree on them, and have emitted the same events on
`sp_evt`, after runs that deliver the same bytes on `sp_in`, whatever else each run delivers, `RESET` excepted. -/
def Obligations.StreamParserIsIndependent : Prop :=
  ∀ (evs fvs : List Event) (s t s' t' : State), noReset evs = true → noReset fvs = true →
    spBytesOf evs = spBytesOf fvs → s.sp = t.sp → runEvents evs s = .next s' → runEvents fvs t = .next t' →
    s'.sp = t'.sp ∧ ∃ new, s'.out.spEvt = s.out.spEvt ++ new ∧ t'.out.spEvt = t.out.spEvt ++ new

/-! ### The circular refinement and the status view -/

/-- 10_state.md R30: the circular buffer refines the queue: it starts as the empty queue whatever `rb_mem` holds, a push and
a pop of it succeed exactly when those of RB raise no fault, and then keep its form, its capacity and the queue it represents. -/
def Obligations.CircularBufferRefinesTheQueue : Prop :=
  (∀ mem : List Byte, mem ≠ [] → (Circular.reset mem).wf = true ∧ (Circular.reset mem).queue = []) ∧
  ∀ (c : Circular) (s : State), c.wf = true → c.queue = s.rbQ → c.mem.length = s.params.capacity →
    (∀ b : Byte, match c.push b, rbPush [b] s with
      | some c', .ok t => c'.wf = true ∧ c'.mem.length = c.mem.length ∧ c'.queue = t.rbQ
      | none, .error _ => True
      | _, _ => False) ∧
    (match c.pop, rbPop s with
      | some (b, c'), .ok (b', t) => b = b' ∧ c'.wf = true ∧ c'.mem.length = c.mem.length ∧ c'.queue = t.rbQ
      | none, .error _ => True
      | _, _ => False)

/-- 10_state.md R48 and 60_exceptions.md R209: the fields of the `status` view and the codes of the fault. That the state
names stand as names and an absent counter as `none` is assumption log 13. -/
def Obligations.StatusViewShowsTheState : Prop :=
  ∀ s : State,
    (statusView s).rbSize = s.rbQ.length ∧ (statusView s).rbCapacity = s.params.capacity ∧
    ((statusView s).rbEmpty = true ↔ s.rbQ.length = 0) ∧ (statusView s).ready = s.bc.ready ∧
    (s.bc.fault = .none ↔ (statusView s).fault = 0) ∧ (s.bc.fault = .overflow ↔ (statusView s).fault = 1) ∧
    (s.bc.fault = .underflow ↔ (statusView s).fault = 2) ∧ (statusView s).fault ≠ 3 ∧
    (statusView s).rxState = s.bc.rxState ∧ (statusView s).spState = s.sp.state ∧
    (statusView s).ppState = s.pp.state ∧
    (s.params.hasDiscardCounter = true → (statusView s).ppDiscards = some s.pp.discards)
end

