-- ==== Sys2Proof/Laws/State.lean ====
section
/-! SUPPORT. One lemma per field per update: what each shared write leaves and writes. -/

namespace Sys2Proof.Machine

variable (s : State)

@[simp] theorem setSp_params (r : SpRegs) : (setSp r s).params = s.params := rfl
@[simp] theorem setSp_sp (r : SpRegs) : (setSp r s).sp = r := rfl
@[simp] theorem setSp_rbQ (r : SpRegs) : (setSp r s).rbQ = s.rbQ := rfl
@[simp] theorem setSp_bc (r : SpRegs) : (setSp r s).bc = s.bc := rfl
@[simp] theorem setSp_pp (r : SpRegs) : (setSp r s).pp = s.pp := rfl
@[simp] theorem setSp_out (r : SpRegs) : (setSp r s).out = s.out := rfl
@[simp] theorem setSp_env (r : SpRegs) : (setSp r s).env = s.env := rfl

@[simp] theorem setRbQ_params (q : List Byte) : (setRbQ q s).params = s.params := rfl
@[simp] theorem setRbQ_sp (q : List Byte) : (setRbQ q s).sp = s.sp := rfl
@[simp] theorem setRbQ_rbQ (q : List Byte) : (setRbQ q s).rbQ = q := rfl
@[simp] theorem setRbQ_bc (q : List Byte) : (setRbQ q s).bc = s.bc := rfl
@[simp] theorem setRbQ_pp (q : List Byte) : (setRbQ q s).pp = s.pp := rfl
@[simp] theorem setRbQ_out (q : List Byte) : (setRbQ q s).out = s.out := rfl
@[simp] theorem setRbQ_env (q : List Byte) : (setRbQ q s).env = s.env := rfl

@[simp] theorem setBc_params (r : BcRegs) : (setBc r s).params = s.params := rfl
@[simp] theorem setBc_sp (r : BcRegs) : (setBc r s).sp = s.sp := rfl
@[simp] theorem setBc_rbQ (r : BcRegs) : (setBc r s).rbQ = s.rbQ := rfl
@[simp] theorem setBc_bc (r : BcRegs) : (setBc r s).bc = r := rfl
@[simp] theorem setBc_pp (r : BcRegs) : (setBc r s).pp = s.pp := rfl
@[simp] theorem setBc_out (r : BcRegs) : (setBc r s).out = s.out := rfl
@[simp] theorem setBc_env (r : BcRegs) : (setBc r s).env = s.env := rfl

@[simp] theorem setPp_params (r : PpRegs) : (setPp r s).params = s.params := rfl
@[simp] theorem setPp_sp (r : PpRegs) : (setPp r s).sp = s.sp := rfl
@[simp] theorem setPp_rbQ (r : PpRegs) : (setPp r s).rbQ = s.rbQ := rfl
@[simp] theorem setPp_bc (r : PpRegs) : (setPp r s).bc = s.bc := rfl
@[simp] theorem setPp_pp (r : PpRegs) : (setPp r s).pp = r := rfl
@[simp] theorem setPp_out (r : PpRegs) : (setPp r s).out = s.out := rfl
@[simp] theorem setPp_env (r : PpRegs) : (setPp r s).env = s.env := rfl

@[simp] theorem setEnv_params (e : Env) : (setEnv e s).params = s.params := rfl
@[simp] theorem setEnv_sp (e : Env) : (setEnv e s).sp = s.sp := rfl
@[simp] theorem setEnv_rbQ (e : Env) : (setEnv e s).rbQ = s.rbQ := rfl
@[simp] theorem setEnv_bc (e : Env) : (setEnv e s).bc = s.bc := rfl
@[simp] theorem setEnv_pp (e : Env) : (setEnv e s).pp = s.pp := rfl
@[simp] theorem setEnv_out (e : Env) : (setEnv e s).out = s.out := rfl
@[simp] theorem setEnv_env (e : Env) : (setEnv e s).env = e := rfl

@[simp] theorem setReady_params (v : Bool) : (setReady v s).params = s.params := rfl
@[simp] theorem setReady_sp (v : Bool) : (setReady v s).sp = s.sp := rfl
@[simp] theorem setReady_rbQ (v : Bool) : (setReady v s).rbQ = s.rbQ := rfl
@[simp] theorem setReady_bc (v : Bool) : (setReady v s).bc = { s.bc with ready := v } := rfl
@[simp] theorem setReady_pp (v : Bool) : (setReady v s).pp = s.pp := rfl
@[simp] theorem setReady_out (v : Bool) : (setReady v s).out = s.out := rfl
@[simp] theorem setReady_env (v : Bool) : (setReady v s).env = s.env := rfl

@[simp] theorem raiseFault_params (f : BcFault) : (raiseFault f s).params = s.params := rfl
@[simp] theorem raiseFault_sp (f : BcFault) : (raiseFault f s).sp = s.sp := rfl
@[simp] theorem raiseFault_rbQ (f : BcFault) : (raiseFault f s).rbQ = s.rbQ := rfl
@[simp] theorem raiseFault_bc (f : BcFault) : (raiseFault f s).bc = { s.bc with fault := f } := rfl
@[simp] theorem raiseFault_pp (f : BcFault) : (raiseFault f s).pp = s.pp := rfl
@[simp] theorem raiseFault_out (f : BcFault) : (raiseFault f s).out = s.out := rfl
@[simp] theorem raiseFault_env (f : BcFault) : (raiseFault f s).env = s.env := rfl

@[simp] theorem emitSp_params (e : SpEvent) : (emitSp e s).params = s.params := rfl
@[simp] theorem emitSp_sp (e : SpEvent) : (emitSp e s).sp = s.sp := rfl
@[simp] theorem emitSp_rbQ (e : SpEvent) : (emitSp e s).rbQ = s.rbQ := rfl
@[simp] theorem emitSp_bc (e : SpEvent) : (emitSp e s).bc = s.bc := rfl
@[simp] theorem emitSp_pp (e : SpEvent) : (emitSp e s).pp = s.pp := rfl
@[simp] theorem emitSp_out (e : SpEvent) : (emitSp e s).out = { s.out with spEvt := s.out.spEvt ++ [e] } := rfl
@[simp] theorem emitSp_env (e : SpEvent) : (emitSp e s).env = s.env := rfl

@[simp] theorem emitFrame_params (f : List Byte) : (emitFrame f s).params = s.params := rfl
@[simp] theorem emitFrame_sp (f : List Byte) : (emitFrame f s).sp = s.sp := rfl
@[simp] theorem emitFrame_rbQ (f : List Byte) : (emitFrame f s).rbQ = s.rbQ := rfl
@[simp] theorem emitFrame_bc (f : List Byte) : (emitFrame f s).bc = s.bc := rfl
@[simp] theorem emitFrame_pp (f : List Byte) : (emitFrame f s).pp = s.pp := rfl
@[simp] theorem emitFrame_out (f : List Byte) : (emitFrame f s).out = { s.out with devTx := s.out.devTx ++ [f] } := rfl
@[simp] theorem emitFrame_env (f : List Byte) : (emitFrame f s).env = s.env := rfl

@[simp] theorem emitCommand_params (bs : List Byte) : (emitCommand bs s).params = s.params := rfl
@[simp] theorem emitCommand_sp (bs : List Byte) : (emitCommand bs s).sp = s.sp := rfl
@[simp] theorem emitCommand_rbQ (bs : List Byte) : (emitCommand bs s).rbQ = s.rbQ := rfl
@[simp] theorem emitCommand_bc (bs : List Byte) : (emitCommand bs s).bc = s.bc := rfl
@[simp] theorem emitCommand_pp (bs : List Byte) : (emitCommand bs s).pp = s.pp := rfl
@[simp] theorem emitCommand_out (bs : List Byte) : (emitCommand bs s).out = { s.out with cmdOut := s.out.cmdOut ++ [⟨bs⟩] } := rfl
@[simp] theorem emitCommand_env (bs : List Byte) : (emitCommand bs s).env = s.env := rfl

@[simp] theorem emitPacket_params (p : Packet) : (emitPacket p s).params = s.params := rfl
@[simp] theorem emitPacket_sp (p : Packet) : (emitPacket p s).sp = s.sp := rfl
@[simp] theorem emitPacket_rbQ (p : Packet) : (emitPacket p s).rbQ = s.rbQ := rfl
@[simp] theorem emitPacket_bc (p : Packet) : (emitPacket p s).bc = s.bc := rfl
@[simp] theorem emitPacket_pp (p : Packet) : (emitPacket p s).pp = s.pp := rfl
@[simp] theorem emitPacket_out (p : Packet) : (emitPacket p s).out = { s.out with pktOut := s.out.pktOut ++ [p] } := rfl
@[simp] theorem emitPacket_env (p : Packet) : (emitPacket p s).env = s.env := rfl

@[simp] theorem replyRb_params (r : RbReply) : (replyRb r s).params = s.params := rfl
@[simp] theorem replyRb_sp (r : RbReply) : (replyRb r s).sp = s.sp := rfl
@[simp] theorem replyRb_rbQ (r : RbReply) : (replyRb r s).rbQ = s.rbQ := rfl
@[simp] theorem replyRb_bc (r : RbReply) : (replyRb r s).bc = s.bc := rfl
@[simp] theorem replyRb_pp (r : RbReply) : (replyRb r s).pp = s.pp := rfl
@[simp] theorem replyRb_out (r : RbReply) : (replyRb r s).out = { s.out with rbReply := s.out.rbReply ++ [r] } := rfl
@[simp] theorem replyRb_env (r : RbReply) : (replyRb r s).env = s.env := rfl

@[simp] theorem resync_address (b : Byte) (r : SpRegs) : (resync b r).address = r.address := by
  unfold resync; split <;> [split; skip] <;> rfl
@[simp] theorem resync_count (b : Byte) (r : SpRegs) : (resync b r).count = r.count := by
  unfold resync; split <;> [split; skip] <;> rfl
@[simp] theorem resync_value (b : Byte) (r : SpRegs) : (resync b r).value = r.value := by
  unfold resync; split <;> [split; skip] <;> rfl
@[simp] theorem ppClear_discards (r : PpRegs) : (ppClear r).discards = r.discards := rfl
@[simp] theorem ppClear_state (r : PpRegs) : (ppClear r).state = .start := rfl

end Sys2Proof.Machine
end

