-- ==== Sys2Proof/Laws/Ops.lean ====
section
/-! SUPPORT. For each shared operation, what it can do, said once. -/

namespace Sys2Proof.Machine

@[simp] theorem running_iff (s : State) : running s = true ↔ s.bc.fault = .none := by simp [running]

theorem whileRunning_of_running {f : State → State} {s : State} (h : s.bc.fault = .none) :
    whileRunning f s = f s := by simp [whileRunning, h]

theorem whileRunning_of_faulted {f : State → State} {s : State} (h : s.bc.fault ≠ .none) :
    whileRunning f s = s := by simp [whileRunning, h]

/-- A push that fits appends the burst; one that does not raises `Overflow` and stores nothing. -/
theorem rbPush_cases (bs : List Byte) (s : State) :
    (s.rbQ.length + bs.length ≤ s.params.capacity ∧ rbPush bs s = .ok (setRbQ (s.rbQ ++ bs) s)) ∨
    (s.params.capacity < s.rbQ.length + bs.length ∧ rbPush bs s = .error (raiseFault .overflow s)) := by
  rcases Nat.lt_or_ge s.params.capacity (s.rbQ.length + bs.length) with h | h
  · exact .inr ⟨h, by simp [rbPush, overflows, h]⟩
  · exact .inl ⟨h, by simp [rbPush, overflows, Nat.not_lt.mpr h]⟩

/-- A pop takes the oldest byte; on an empty queue it raises `Underflow`. -/
theorem rbPop_cases (s : State) :
    (∃ b q, s.rbQ = b :: q ∧ rbPop s = .ok (b, setRbQ q s)) ∨
    (s.rbQ = [] ∧ rbPop s = .error (raiseFault .underflow s)) := by
  unfold rbPop
  cases h : s.rbQ with
  | nil => exact .inr ⟨rfl, rfl⟩
  | cons b q => exact .inl ⟨b, q, rfl, rfl⟩

/-- `n` pops of a queue of at least `n` bytes are `take(n, rb_q)` and leave `drop(n, rb_q)` (42_bus_controller.md R167). -/
theorem rbPopN_eq (n : Nat) (s : State) (h : n ≤ s.rbQ.length) :
    rbPopN n s = .ok (s.rbQ.take n, setRbQ (s.rbQ.drop n) s) := by
  induction n generalizing s with
  | zero => rfl
  | succ n ih =>
    obtain ⟨b, q, hq, hp⟩ | ⟨hq, -⟩ := rbPop_cases s
    · have hn : n ≤ (setRbQ q s).rbQ.length := by simpa [hq] using h
      simp only [rbPopN, hp, ih _ hn, hq]
      rfl
    · simp [hq] at h

/-- What `BC.FLUSH` does: one frame with the first chunk, the rest queued, the credit spent. -/
theorem sendChunk_eq (s : State) :
    sendChunk s = { s with
      rbQ := s.rbQ.drop (min s.rbQ.length s.params.maxPayload)
      bc := { s.bc with ready := false }
      out := { s.out with devTx := s.out.devTx ++ [outboundFrame s.params (chunkOf s.params s.rbQ)] } } := by
  simp only [sendChunk, chunkSize, rbPopN_eq _ s (Nat.min_le_left _ _)]
  rfl

/-- A flush happens exactly when one is due. -/
theorem flushIfDue_cases (s : State) :
    (s.bc.ready = true ∧ s.rbQ ≠ [] ∧ flushIfDue s = sendChunk s) ∨
    ((s.bc.ready = false ∨ s.rbQ = []) ∧ flushIfDue s = s) := by
  unfold flushIfDue flushDue
  cases s.bc.ready <;> cases s.rbQ <;> simp

/-- The resynchronisation step writes `sp_state` and `sp_sync_run` only. -/
theorem resync_cases (b : Byte) (r : SpRegs) :
    (b = 0x55 ∧ r.syncRun = 3 ∧ resync b r = { r with state := .addressLow, syncRun := 0 }) ∨
    (b = 0x55 ∧ r.syncRun ≠ 3 ∧ resync b r = { r with syncRun := r.syncRun + 1 }) ∨
    (b ≠ 0x55 ∧ resync b r = { r with syncRun := 0 }) := by
  unfold resync
  split
  · split
    · exact .inl ⟨‹_›, ‹_›, rfl⟩
    · exact .inr (.inl ⟨‹_›, ‹_›, rfl⟩)
  · exact .inr (.inr ⟨‹_›, rfl⟩)

/-- An event on `sp_in` performs the operation that `sp_state` selects. -/
theorem exec_selectSp (b : Byte) (s : State) : exec (selectSp s.sp.state b) s = .next (spByte b s) := by
  unfold spByte
  cases s.sp.state <;> rfl

/-- The operations complete: every meaning answers a next state. -/
theorem exec_next (i : Instr) (s : State) : ∃ t, exec i s = .next t := by
  cases i <;> exact ⟨_, rfl⟩

/-- An event is delivered by the agent whose turn it is, and it is the first that agent had to deliver. -/
theorem takeEvent_some {e e' : Env} {ev : Event} (h : takeEvent e = (some ev, e')) : e = e'.cons ev := by
  unfold takeEvent at h
  split at h
  · simp at h
  all_goals
    split at h
    · simp at h
    · simp only [Prod.mk.injEq, Option.some.injEq] at h
      obtain ⟨rfl, rfl⟩ := h
      cases e; simp_all [Env.cons]

/-- Placing an event makes it the next to be delivered. -/
theorem takeEvent_cons (ev : Event) (e : Env) : takeEvent (e.cons ev) = (some ev, e) := by
  cases ev <;> rfl

/-- What a burst does to a running BC: an overflow that stores nothing; or all of it queued and no flush due; or all of it
queued and one chunk sent. -/
theorem ingest_cases (bs : List Byte) (s : State) :
    (s.params.capacity < s.rbQ.length + bs.length ∧ ingest bs s = raiseFault .overflow s) ∨
    (s.rbQ.length + bs.length ≤ s.params.capacity ∧ (s.bc.ready = false ∨ s.rbQ ++ bs = []) ∧
      ingest bs s = setRbQ (s.rbQ ++ bs) s) ∨
    (s.rbQ.length + bs.length ≤ s.params.capacity ∧ s.bc.ready = true ∧ s.rbQ ++ bs ≠ [] ∧
      ingest bs s = sendChunk (setRbQ (s.rbQ ++ bs) s)) := by
  rcases rbPush_cases bs s with ⟨h, e⟩ | ⟨h, e⟩
  · simp only [ingest, e]
    rcases flushIfDue_cases (setRbQ (s.rbQ ++ bs) s) with ⟨h1, h2, e⟩ | ⟨h1, e⟩
    · exact .inr (.inr ⟨h, h1, h2, e⟩)
    · exact .inr (.inl ⟨h, h1, e⟩)
  · exact .inl ⟨h, by simp only [ingest, e]⟩

/-- A push in either outcome. -/
theorem pushed_cases (bs : List Byte) (s : State) :
    (s.rbQ.length + bs.length ≤ s.params.capacity ∧ pushed bs s = setRbQ (s.rbQ ++ bs) s) ∨
    (s.params.capacity < s.rbQ.length + bs.length ∧ pushed bs s = raiseFault .overflow s) := by
  rcases rbPush_cases bs s with ⟨h, e⟩ | ⟨h, e⟩
  · exact .inl ⟨h, by simp only [pushed, e]⟩
  · exact .inr ⟨h, by simp only [pushed, e]⟩

/-- The value of a 16-bit field whose low byte is in the register when the high byte arrives. -/
theorem addHighByte_toNat (r : Half) (b : Byte) :
    (addHighByte r b).toNat = (r.toNat + b.toNat * 256) % 65536 := by
  simp [addHighByte, Nat.shiftLeft_eq]

theorem lowByte_toNat (b : Byte) : (lowByte b).toNat = b.toNat := by simp [lowByte]; omega

theorem packetType_toNat (b : Byte) : (packetType b).toNat = b.toNat / 32 := by
  simp [packetType, Nat.shiftRight_eq_div_pow]; omega

theorem packetAddress_toNat (b : Byte) : (packetAddress b).toNat = b.toNat % 32 := by simp [packetAddress]

theorem byteSum_append (a b : List Byte) : byteSum (a ++ b) = byteSum a + byteSum b := by
  induction a with
  | nil => simp [byteSum]
  | cons x a ih => simp only [List.cons_append, byteSum, ih]; omega

theorem spBytes_append (a b : List Byte) (s : State) : spBytes (a ++ b) s = spBytes b (spBytes a s) := by
  induction a generalizing s with
  | nil => rfl
  | cons x a ih => simp only [List.cons_append, spBytes, ih]

/-- A byte on `sp_in`. -/
theorem perform_spb (b : Byte) (s : State) : perform (.ingress (.spb b)) s = .next (spByte b s) :=
  exec_selectSp b s

/-- A burst on `ing`. -/
theorem perform_ing (bs : List Byte) (s : State) : perform (.ingress (.ing bs)) s = exec (.bcIng bs) s := rfl

/-- A byte on `dev_rx` of a running BC. -/
theorem perform_drx (b : Byte) (s : State) (h : s.bc.fault = .none) :
    perform (.device (.drx b)) s = exec (selectDev s.params s.bc.rxState b) s := by
  simp [perform, decode, State.selector, h]

/-- A byte on `dev_rx` of a faulted BC. -/
theorem perform_drx_faulted (b : Byte) (s : State) (h : s.bc.fault ≠ .none) :
    perform (.device (.drx b)) s = .next s := by
  simp [perform, decode, State.selector, h]

/-- A byte on `pkt_rx`. -/
theorem perform_prx (b : Byte) (s : State) : perform (.device (.prx b)) s = exec (selectPp s.pp.state b) s := rfl

/-- What a step that answers a next state did: it performed the event whose turn it was, or it let a turn pass. -/
theorem step_cases {s t : State} (h : step s = .next t) :
    (∃ ev e, takeEvent s.env = (some ev, e) ∧ perform ev (setEnv e s) = .next t) ∨
    ∃ e, takeEvent s.env = (none, e) ∧ t = setEnv e s := by
  unfold step at h
  split at h
  · split at h
    · exact .inl ⟨_, _, ‹_›, h⟩
    · cases h; exact .inr ⟨_, ‹_›, rfl⟩
  · cases h

/-- Every event answers a next state. -/
theorem perform_next (ev : Event) (s : State) : ∃ t, perform ev s = .next t := by
  unfold perform
  split
  · exact exec_next _ _
  · exact ⟨s, rfl⟩

/-- A run's first event and the rest. -/
theorem runEvents_cons {ev : Event} {evs : List Event} {s t : State} (h : runEvents (ev :: evs) s = .next t) :
    ∃ u, perform ev s = .next u ∧ runEvents evs u = .next t := by
  obtain ⟨u, hu⟩ := perform_next ev s
  exact ⟨u, hu, by simpa [runEvents, hu] using h⟩

end Sys2Proof.Machine
end

