-- ==== Sys2Proof/Laws/PerInstr.lean ====
section
/-! SUPPORT. Per-instruction families: one lemma per constructor of `Instr`. -/

namespace Sys2Proof.Laws

/-- The agent that owns the port of an operation (60_exceptions.md R220, R221): the event that encodes it is that agent's. -/
def EncodedEventAgent.Statement (i : Instr) : Prop :=
  ∀ (p : Params) (e : Encoding), encode p i = some e → e.event.agent =
    match e.home with
    | .sp _ => .ingress
    | .rx _ => .device
    | .pp _ => .device
    | .any => if i = .reset ∨ i = .rbSize ∨ i = .rbCap ∨ i = .rbEmpty then .host else .ingress

theorem EncodedEventAgent.spWfs (b : Byte) : EncodedEventAgent.Statement (.spWfs b) := by
  intro p e h; cases h; rfl
theorem EncodedEventAgent.spAddrl (b : Byte) : EncodedEventAgent.Statement (.spAddrl b) := by
  intro p e h; cases h; rfl
theorem EncodedEventAgent.spAddrh (b : Byte) : EncodedEventAgent.Statement (.spAddrh b) := by
  intro p e h; cases h; rfl
theorem EncodedEventAgent.spCntl (b : Byte) : EncodedEventAgent.Statement (.spCntl b) := by
  intro p e h; cases h; rfl
theorem EncodedEventAgent.spCnth (b : Byte) : EncodedEventAgent.Statement (.spCnth b) := by
  intro p e h; cases h; rfl
theorem EncodedEventAgent.spDatl (b : Byte) : EncodedEventAgent.Statement (.spDatl b) := by
  intro p e h; cases h; rfl
theorem EncodedEventAgent.spDath (b : Byte) : EncodedEventAgent.Statement (.spDath b) := by
  intro p e h; cases h; rfl
theorem EncodedEventAgent.spResync (b : Byte) : EncodedEventAgent.Statement (.spResync b) := by
  intro p e h; cases h
theorem EncodedEventAgent.spBuf (bs : List Byte) : EncodedEventAgent.Statement (.spBuf bs) := by
  intro p e h; cases h
theorem EncodedEventAgent.rbPush (b : Byte) : EncodedEventAgent.Statement (.rbPush b) := by
  intro p e h; cases h
theorem EncodedEventAgent.rbPushn (bs : List Byte) : EncodedEventAgent.Statement (.rbPushn bs) := by
  intro p e h; cases h
theorem EncodedEventAgent.rbPop : EncodedEventAgent.Statement .rbPop := by
  intro p e h; cases h
theorem EncodedEventAgent.rbSize : EncodedEventAgent.Statement .rbSize := by
  intro p e h; cases h; rfl
theorem EncodedEventAgent.rbCap : EncodedEventAgent.Statement .rbCap := by
  intro p e h; cases h; rfl
theorem EncodedEventAgent.rbEmpty : EncodedEventAgent.Statement .rbEmpty := by
  intro p e h; cases h; rfl
theorem EncodedEventAgent.bcIng (bs : List Byte) : EncodedEventAgent.Statement (.bcIng bs) := by
  intro p e h; cases h; rfl
theorem EncodedEventAgent.bcFlush : EncodedEventAgent.Statement .bcFlush := by
  intro p e h; cases h
theorem EncodedEventAgent.bcRdy : EncodedEventAgent.Statement .bcRdy := by
  intro p e h; cases h; rfl
theorem EncodedEventAgent.bcFull : EncodedEventAgent.Statement .bcFull := by
  intro p e h; cases h; rfl
theorem EncodedEventAgent.bcDrcv : EncodedEventAgent.Statement .bcDrcv := by
  intro p e h; cases h; rfl
theorem EncodedEventAgent.bcErr : EncodedEventAgent.Statement .bcErr := by
  intro p e h; cases h; rfl
theorem EncodedEventAgent.bcMsg : EncodedEventAgent.Statement .bcMsg := by
  intro p e h; cases h; rfl
theorem EncodedEventAgent.bcUnk (b : Byte) : EncodedEventAgent.Statement (.bcUnk b) := by
  intro p e h; cases h; rfl
theorem EncodedEventAgent.bcMsize (b : Byte) : EncodedEventAgent.Statement (.bcMsize b) := by
  intro p e h; cases h; rfl
theorem EncodedEventAgent.bcMdata (b : Byte) : EncodedEventAgent.Statement (.bcMdata b) := by
  intro p e h; cases h; rfl
theorem EncodedEventAgent.ppStart (b : Byte) : EncodedEventAgent.Statement (.ppStart b) := by
  intro p e h; cases h; rfl
theorem EncodedEventAgent.ppLeadin (b : Byte) : EncodedEventAgent.Statement (.ppLeadin b) := by
  intro p e h; cases h; rfl
theorem EncodedEventAgent.ppAddr (b : Byte) : EncodedEventAgent.Statement (.ppAddr b) := by
  intro p e h; cases h; rfl
theorem EncodedEventAgent.ppSize (b : Byte) : EncodedEventAgent.Statement (.ppSize b) := by
  intro p e h; cases h; rfl
theorem EncodedEventAgent.ppData (b : Byte) : EncodedEventAgent.Statement (.ppData b) := by
  intro p e h; cases h; rfl
theorem EncodedEventAgent.ppCksum (b : Byte) : EncodedEventAgent.Statement (.ppCksum b) := by
  intro p e h; cases h; rfl
theorem EncodedEventAgent.reset : EncodedEventAgent.Statement .reset := by
  intro p e h; cases h; rfl

end Sys2Proof.Laws
end

