-- ==== Sys2Proof/Tests/Slice0.lean ====
section
/-! SUPPORT. Tests: what the well-formedness checks refuse, what written-out bytes select, one step of each operation with
the values of the spec's own examples, and a witness for the hypotheses of each statement. -/

namespace Sys2Proof.Tests

open Sys2Proof Sys2Proof.Machine

/-- The default parameters with `CAPACITY = 4`, the value of most of the spec's examples. -/
def p4 : Params := Params.withDefaults 4 .toBC

def spAt (r : SpRegs) : State := { State.resetWith p4 with sp := r }

def bcAt (q : List Byte) (r : BcRegs) : State := { State.resetWith p4 with rbQ := q, bc := r }

def ppAt (r : PpRegs) : State := { State.resetWith p4 with pp := r }

/-- BC with a queue and a credit, between messages. -/
def bcIdle (q : List Byte) (ready : Bool) : State := bcAt q ⟨ready, .awaitingNotification, 0, [], .none⟩

/-- BC after an overflow. -/
def bcDown (q : List Byte) (ready : Bool) : State := bcAt q ⟨ready, .awaitingNotification, 0, [], .overflow⟩

def nextOf : Result → Option State
  | .next t => some t
  | _ => none

/-! ### Well-formedness -/

theorem test_wf_defaults : p4.wf = true := by decide
theorem test_wf_refuses_capacity_0 : { p4 with capacity := 0 }.wf = false := by decide
theorem test_wf_refuses_payload_0 : { p4 with maxPayload := 0 }.wf = false := by decide
theorem test_wf_refuses_payload_256 : { p4 with maxPayload := 256 }.wf = false := by decide
theorem test_wf_refuses_empty_header : { p4 with cmdHeader := [] }.wf = false := by decide
theorem test_wf_refuses_equal_codes : { p4 with stError := 0x72 }.wf = false := by decide
theorem test_wf_refuses_size_256 : { p4 with ppMaxSize := 256 }.wf = false := by decide
theorem test_wf_refuses_empty_pushn : Instr.wf p4 (.rbPushn []) = false := by decide
theorem test_wf_refuses_empty_burst : Instr.wf p4 (.bcIng []) = false := by decide
theorem test_wf_refuses_known_code_as_unknown : Instr.wf p4 (.bcUnk 0x78) = false := by decide

/-! ### Selection: the bytes of 30_encoding.md R100 and R107 to R110, each in the state its row asks for -/

def sel (sp : SpState) (rx : BcRxState) (pp : PpState) : Selector := ⟨p4, sp, rx, pp, false⟩

theorem test_select_sp :
    decode (.ingress (.spb 0x01)) (sel .waitForSync .awaitingNotification .start) = .op (.spWfs 0x01) ∧
    decode (.ingress (.spb 0x02)) (sel .addressLow .awaitingNotification .start) = .op (.spAddrl 0x02) ∧
    decode (.ingress (.spb 0x03)) (sel .addressHigh .awaitingNotification .start) = .op (.spAddrh 0x03) ∧
    decode (.ingress (.spb 0x04)) (sel .countLow .awaitingNotification .start) = .op (.spCntl 0x04) ∧
    decode (.ingress (.spb 0x05)) (sel .countHigh .awaitingNotification .start) = .op (.spCnth 0x05) ∧
    decode (.ingress (.spb 0x06)) (sel .dataLow .awaitingNotification .start) = .op (.spDatl 0x06) ∧
    decode (.ingress (.spb 0x55)) (sel .dataHigh .awaitingNotification .start) = .op (.spDath 0x55) := by decide

theorem test_select_status :
    decode (.device (.drx 0b01110010)) (sel .waitForSync .awaitingNotification .start) = .op .bcRdy ∧
    decode (.device (.drx 0b01110100)) (sel .waitForSync .awaitingNotification .start) = .op .bcFull ∧
    decode (.device (.drx 0b01110110)) (sel .waitForSync .awaitingNotification .start) = .op .bcDrcv ∧
    decode (.device (.drx 0b01111000)) (sel .waitForSync .awaitingNotification .start) = .op .bcErr ∧
    decode (.device (.drx 0b01101101)) (sel .waitForSync .awaitingNotification .start) = .op .bcMsg ∧
    decode (.device (.drx 0b01110011)) (sel .waitForSync .awaitingNotification .start) = .op (.bcUnk 0x73) ∧
    decode (.device (.drx 0x65)) (sel .waitForSync .awaitingNotification .start) = .op (.bcUnk 0x65) := by decide

theorem test_select_message :
    decode (.device (.drx 0x72)) (sel .waitForSync .messageSizeExpected .start) = .op (.bcMsize 0x72) ∧
    decode (.device (.drx 0x6D)) (sel .waitForSync .messageDataExpected .start) = .op (.bcMdata 0x6D) ∧
    decode (.device (.drx 0x72)) ⟨p4, .waitForSync, .awaitingNotification, .start, true⟩ =
      .dropped .busControllerHalted := by decide

theorem test_select_pp :
    decode (.device (.prx 0xBB)) (sel .waitForSync .awaitingNotification .start) = .op (.ppStart 0xBB) ∧
    decode (.device (.prx 0x88)) (sel .waitForSync .awaitingNotification .leadIn) = .op (.ppLeadin 0x88) ∧
    decode (.device (.prx 0xA3)) (sel .waitForSync .awaitingNotification .address) = .op (.ppAddr 0xA3) ∧
    decode (.device (.prx 0x02)) (sel .waitForSync .awaitingNotification .size) = .op (.ppSize 0x02) ∧
    decode (.device (.prx 0x10)) (sel .waitForSync .awaitingNotification .data) = .op (.ppData 0x10) ∧
    decode (.device (.prx 0xD5)) (sel .waitForSync .awaitingNotification .checksum) = .op (.ppCksum 0xD5) := by decide

theorem test_select_other :
    decode (.ingress (.ing [0xFF])) (sel .waitForSync .messageDataExpected .data) = .op (.bcIng [0xFF]) ∧
    decode (.host .reset) (sel .dataLow .messageDataExpected .data) = .op .reset ∧
    decode (.host (.query .size)) (sel .waitForSync .awaitingNotification .start) = .op .rbSize ∧
    decode (.host (.query .capacity)) (sel .waitForSync .awaitingNotification .start) = .op .rbCap ∧
    decode (.host (.query .isEmpty)) (sel .waitForSync .awaitingNotification .start) = .op .rbEmpty := by decide

theorem test_table_word_ready : decodeTableWord 8 0x72 = some .bcRdy := by decide
theorem test_table_word_too_long : decodeTableWord 16 0x72 = none ∧ decodeTableWord 8 0x172 = none := by decide
theorem test_fetch_word_runs :
    (nextOf (step (State.reset.withFetchWord 8 0x6D))).map (·.bc.rxState) = some .messageSizeExpected := by decide

/-! ### SP: the examples of 40_stream_parser.md R131 to R139 -/

theorem test_wfs_ignores : (nextOf (exec (.spWfs 0x00) (spAt ⟨.waitForSync, 0, 0, 0, 3⟩))).map (·.sp) =
    some ⟨.waitForSync, 0, 0, 0, 0⟩ := by decide
theorem test_addrl_example : (nextOf (exec (.spAddrl 0x34) (spAt ⟨.addressLow, 0xFFFF, 0, 0, 0⟩))).map (·.sp) =
    some ⟨.addressHigh, 0x0034, 0, 0, 0⟩ := by decide
theorem test_addrh_example : (nextOf (exec (.spAddrh 0x12) (spAt ⟨.addressHigh, 0x0034, 0, 0, 0⟩))).map (·.sp) =
    some ⟨.countLow, 0x1234, 0, 0, 0⟩ := by decide
theorem test_addrh_no_more_data : (nextOf (exec (.spAddrh 0x55) (spAt ⟨.addressHigh, 0x0055, 0, 0, 1⟩))).map (·.sp) =
    some ⟨.waitForSync, 0x5555, 0, 0, 2⟩ := by decide
theorem test_cntl_example : (nextOf (exec (.spCntl 0x04) (spAt ⟨.countLow, 0, 0xFFFF, 0, 0⟩))).map (·.sp) =
    some ⟨.countHigh, 0, 0x0004, 0, 0⟩ := by decide
theorem test_cnth_little_endian : (nextOf (exec (.spCnth 0x01) (spAt ⟨.countHigh, 0, 0x0002, 0, 0⟩))).map (·.sp) =
    some ⟨.dataLow, 0, 0x0102, 0, 0⟩ := by decide
theorem test_datl_example : (nextOf (exec (.spDatl 0x21) (spAt ⟨.dataLow, 4, 4, 0xFFFF, 0⟩))).map (·.sp) =
    some ⟨.dataHigh, 4, 3, 0x0021, 0⟩ := by decide
theorem test_datl_count_wraps : (nextOf (exec (.spDatl 0x11) (spAt ⟨.dataLow, 0, 0, 0, 0⟩))).map (·.sp.count) =
    some 0xFFFF := by decide
theorem test_dath_example : (nextOf (exec (.spDath 0x10) (spAt ⟨.dataHigh, 4, 3, 0x0021, 0⟩))).map
    (fun t => (t.sp, t.out.spEvt)) = some (⟨.dataLow, 6, 2, 0x1021, 0⟩, [.data 4 0x1021]) := by decide
theorem test_dath_end_of_frame : (nextOf (exec (.spDath 0xCD) (spAt ⟨.dataHigh, 0xFFFE, 1, 0x00AB, 0⟩))).map
    (fun t => (t.sp, t.out.spEvt)) = some (⟨.addressLow, 0xFFFE, 0, 0xCDAB, 0⟩, [.sync]) := by decide
theorem test_resync_fourth : (nextOf (exec (.spResync 0x55) (spAt ⟨.dataHigh, 7, 8, 9, 3⟩))).map (·.sp) =
    some ⟨.addressLow, 7, 8, 9, 0⟩ := by decide
theorem test_resync_other_byte : (nextOf (exec (.spResync 0x54) (spAt ⟨.dataHigh, 7, 8, 9, 3⟩))).map (·.sp) =
    some ⟨.dataHigh, 7, 8, 9, 0⟩ := by decide
/-- 95_test_vectors.md S1, the source's own example. -/
theorem test_buf_source_example : (nextOf (exec (.spBuf [0x55, 0x55, 0x55, 0x55, 0x00, 0x00, 0x02, 0x00, 0x10, 0x00, 0xFE,
    0xFF, 0x02, 0x00, 0x00, 0x00]) (spAt SpRegs.reset))).map (fun t => (t.sp, t.out.spEvt)) =
    some (⟨.addressLow, 0xFFFE, 0, 0, 0⟩, [.data 0x0000 0x0010, .sync]) := by decide

/-! ### RB: the examples of 41_ring_buffer.md R150 to R155 -/

theorem test_push_last_place : (nextOf (exec (.rbPush 4) (bcIdle [1, 2, 3] false))).map (fun t => (t.rbQ, t.bc.fault)) =
    some ([1, 2, 3, 4], .none) := by decide
theorem test_push_overflows : (nextOf (exec (.rbPush 5) (bcIdle [1, 2, 3, 4] false))).map
    (fun t => (t.rbQ, t.bc.fault)) = some ([1, 2, 3, 4], .overflow) := by decide
theorem test_pushn_all_or_nothing : (nextOf (exec (.rbPushn [4, 5]) (bcIdle [1, 2, 3] false))).map
    (fun t => (t.rbQ, t.bc.fault)) = some ([1, 2, 3], .overflow) := by decide
theorem test_pushn_keeps_order : (nextOf (exec (.rbPushn [4, 5]) (bcIdle [1, 2] false))).map (·.rbQ) =
    some [1, 2, 4, 5] := by decide
theorem test_pop_example : (nextOf (exec .rbPop (bcIdle [0x0A, 0x0B] false))).map
    (fun t => (t.rbQ, t.out.rbReply)) = some ([0x0B], [.byte 0x0A]) := by decide
theorem test_pop_underflows : (nextOf (exec .rbPop (bcIdle [] false))).map (·.bc.fault) = some .underflow := by decide
theorem test_size_example : (nextOf (exec .rbSize (bcIdle [0x0A, 0x0B] false))).map (·.out.rbReply) =
    some [.size 2] := by decide
theorem test_capacity_example : (nextOf (exec .rbCap (bcIdle [] false))).map (·.out.rbReply) =
    some [.capacity 4] := by decide
theorem test_empty_example : (nextOf (exec .rbEmpty (bcIdle [] false))).map (·.out.rbReply) =
    some [.empty true] := by decide

/-! ### BC: the examples of 42_bus_controller.md R165 to R175 -/

theorem test_ing_sends_at_once : (nextOf (exec (.bcIng [0xFF]) (bcIdle [] true))).map
    (fun t => (t.rbQ, t.bc.ready, t.out.devTx)) = some ([], false, [[0x65, 0x01, 0xFF, 0x00]]) := by decide
theorem test_ing_queues : (nextOf (exec (.bcIng [1, 2, 3]) (bcIdle [] false))).map
    (fun t => (t.rbQ, t.out.devTx)) = some ([1, 2, 3], []) := by decide
theorem test_flush_example :
    (nextOf (exec .bcFlush { bcIdle [0x10, 0x11, 0x12, 0x13, 0x14, 0x15] true with
      params := { p4 with maxPayload := 4, capacity := 16 } })).map (fun t => (t.rbQ, t.bc.ready, t.out.devTx)) =
    some ([0x14, 0x15], false, [[0x65, 0x04, 0x10, 0x11, 0x12, 0x13, 0x4A]]) := by decide
theorem test_flush_header_of_two_bytes :
    (nextOf (exec .bcFlush { bcIdle [1, 2] true with params := { p4 with cmdHeader := [0x65, 0x65] } })).map
      (·.out.devTx) = some [[0x65, 0x65, 0x02, 0x01, 0x02, 0x05]] := by decide
theorem test_rdy_sends : (nextOf (exec .bcRdy (bcIdle [1, 2, 3] false))).map
    (fun t => (t.rbQ, t.bc.ready, t.out.devTx)) = some ([], false, [[0x65, 0x03, 0x01, 0x02, 0x03, 0x09]]) := by decide
theorem test_rdy_keeps_credit : (nextOf (exec .bcRdy (bcIdle [] false))).map (fun t => (t.bc.ready, t.out.devTx)) =
    some (true, []) := by decide
theorem test_full_example : (nextOf (exec .bcFull (bcIdle [] true))).map (·.bc.ready) = some false := by decide
theorem test_drcv_example : nextOf (exec .bcDrcv (bcIdle [1] false)) = some (bcIdle [1] false) := by decide
theorem test_err_example : nextOf (exec .bcErr (bcIdle [0xAA] false)) = some (bcIdle [0xAA] false) := by decide
theorem test_err_withdraws : (nextOf (exec .bcErr (bcIdle [] true))).map (·.bc.ready) = some false := by decide
theorem test_msg_example : (nextOf (exec .bcMsg (bcIdle [] false))).map (·.bc.rxState) =
    some .messageSizeExpected := by decide
theorem test_unk_example : nextOf (exec (.bcUnk 0x99) (bcIdle [1] true)) = some (bcIdle [1] true) := by decide
theorem test_msize_example :
    (nextOf (exec (.bcMsize 3) (bcAt [] ⟨false, .messageSizeExpected, 0, [], .none⟩))).map (·.bc) =
    some ⟨false, .messageDataExpected, 3, [], .none⟩ := by decide
theorem test_msize_zero :
    (nextOf (exec (.bcMsize 0) (bcAt [] ⟨true, .messageSizeExpected, 0, [], .none⟩))).map
      (fun t => (t.bc, t.out.cmdOut)) = some (⟨true, .awaitingNotification, 0, [], .none⟩, [⟨[]⟩]) := by decide
theorem test_mdata_takes_a_status_code :
    (nextOf (exec (.bcMdata 0x72) (bcAt [] ⟨false, .messageDataExpected, 2, [], .none⟩))).map (·.bc) =
    some ⟨false, .messageDataExpected, 1, [0x72], .none⟩ := by decide
theorem test_mdata_last :
    (nextOf (exec (.bcMdata 0x0A) (bcAt [] ⟨false, .messageDataExpected, 1, [0x72], .none⟩))).map
      (fun t => (t.bc, t.out.cmdOut)) =
    some (⟨false, .awaitingNotification, 0, [], .none⟩, [⟨[0x72, 0x0A]⟩]) := by decide

/-! ### PP: the examples of 43_packet_parser.md R191 to R196 -/

theorem test_start_skips : nextOf (exec (.ppStart 0x00) (ppAt PpRegs.reset)) = some (ppAt PpRegs.reset) := by decide
theorem test_start_marker : (nextOf (exec (.ppStart 0xBB) (ppAt PpRegs.reset))).map (·.pp.state) =
    some .leadIn := by decide
theorem test_leadin_marker : (nextOf (exec (.ppLeadin 0x88) (ppAt ⟨.leadIn, 0, 0, 0, 0, 0, [], 0⟩))).map
    (·.pp.state) = some .address := by decide
theorem test_leadin_mismatch : (nextOf (exec (.ppLeadin 0x12) (ppAt ⟨.leadIn, 0, 0, 0, 0, 0, [], 5⟩))).map (·.pp) =
    some ⟨.start, 0, 0, 0, 0, 0, [], 5⟩ := by decide
theorem test_addr_example : (nextOf (exec (.ppAddr 0xA3) (ppAt ⟨.address, 0, 0, 0, 0, 0, [], 0⟩))).map (·.pp) =
    some ⟨.size, 5, 0x03, 0, 0, 0xA3, [], 0⟩ := by decide
theorem test_size_accepts : (nextOf (exec (.ppSize 0x02) (ppAt ⟨.size, 5, 3, 0, 0, 0xA3, [], 0⟩))).map (·.pp) =
    some ⟨.data, 5, 3, 2, 2, 0xA5, [], 0⟩ := by decide
/-- 95_test_vectors.md V-PP-18. -/
theorem test_size_oversize :
    (nextOf (exec (.ppSize 0x09) { ppAt ⟨.size, 5, 3, 0, 0, 0xA3, [], 0⟩ with
      params := { p4 with ppMaxSize := 8 } })).map (·.pp) = some ⟨.start, 0, 0, 0, 0, 0, [], 1⟩ := by decide
theorem test_data_example : (nextOf (exec (.ppData 0x10) (ppAt ⟨.data, 5, 3, 2, 2, 0xA5, [], 0⟩))).map (·.pp) =
    some ⟨.data, 5, 3, 2, 1, 0xB5, [0x10], 0⟩ := by decide
theorem test_data_last : (nextOf (exec (.ppData 0x20) (ppAt ⟨.data, 5, 3, 2, 1, 0xB5, [0x10], 0⟩))).map (·.pp) =
    some ⟨.checksum, 5, 3, 2, 0, 0xD5, [0x10, 0x20], 0⟩ := by decide
theorem test_cksum_match :
    (nextOf (exec (.ppCksum 0xD5) (ppAt ⟨.checksum, 5, 3, 2, 0, 0xD5, [0x10, 0x20], 0⟩))).map
      (fun t => (t.pp, t.out.pktOut)) = some (⟨.start, 0, 0, 0, 0, 0, [], 0⟩, [⟨5, 3, [0x10, 0x20]⟩]) := by decide
theorem test_cksum_mismatch :
    (nextOf (exec (.ppCksum 0xD4) (ppAt ⟨.checksum, 5, 3, 2, 0, 0xD5, [0x10, 0x20], 0⟩))).map
      (fun t => (t.pp, t.out.pktOut)) = some (⟨.start, 0, 0, 0, 0, 0, [], 1⟩, []) := by decide

/-! ### RESET (70_reset_and_hazards.md R235; 95_test_vectors.md V-BC-4) -/

theorem test_reset_ends_a_fault : nextOf (exec .reset (bcDown [1, 2, 3] true)) = some (State.resetWith p4) := by decide

/-! ### Witnesses: a state and operands that meet the hypotheses of each statement, for each of its clauses, at the
boundaries -/

theorem witness_SpWfsIgnoresTheByte : (spAt SpRegs.reset).sp.state = .waitForSync := by decide

theorem witness_SpAddressIsAssembled :
    (spAt ⟨.addressLow, 0, 0, 0, 0⟩).sp.state = .addressLow ∧
    (spAt ⟨.addressHigh, 0x55, 0, 0, 0⟩).sp.state = .addressHigh := by decide

theorem witness_SpCountIsAssembled :
    (spAt ⟨.countLow, 0, 0, 0, 0⟩).sp.state = .countLow ∧
    (spAt ⟨.countHigh, 0, 0xFF, 0, 0⟩).sp.state = .countHigh := by decide

theorem witness_SpDatlLoadsTheValueLowByte : (spAt ⟨.dataLow, 0, 0, 0, 0⟩).sp.state = .dataLow := by decide

theorem witness_SpDathEmitsTheCell : (spAt ⟨.dataHigh, 0xFFFE, 1, 0, 0⟩).sp.state = .dataHigh := by decide

theorem witness_SpResyncCountsTheRun :
    (spAt ⟨.dataLow, 0, 0, 0, 3⟩).sp.syncRun = 3 ∧ (spAt ⟨.dataLow, 0, 0, 0, 2⟩).sp.syncRun ≠ 3 ∧
    (0x54 : Byte) ≠ 0x55 := by decide

/-- Three bytes of four; four of four; a burst that fills the buffer exactly; one byte more. -/
theorem witness_RbPushIsAllOrNothing :
    (bcIdle [1, 2, 3] false).bc.fault = .none ∧
    (bcIdle [1, 2, 3] false).rbQ.length < (bcIdle [1, 2, 3] false).params.capacity ∧
    (bcIdle [1, 2, 3, 4] false).rbQ.length = (bcIdle [1, 2, 3, 4] false).params.capacity ∧
    (bcIdle [1, 2] false).rbQ.length + [3, 4].length ≤ (bcIdle [1, 2] false).params.capacity ∧
    ([3, 4, 5] : List Byte) ≠ [] ∧
    (bcIdle [1, 2] false).params.capacity < (bcIdle [1, 2] false).rbQ.length + [3, 4, 5].length := by decide

theorem witness_RbPopTakesTheOldestByte :
    (bcIdle [0x0A] false).bc.fault = .none ∧ (bcIdle [0x0A] false).rbQ = 0x0A :: [] ∧
    (bcIdle [] false).bc.fault = .none ∧ (bcIdle [] false).rbQ = [] := by decide

theorem witness_FaultedRingBufferDoesNothing : (bcDown [1] true).bc.fault ≠ .none := by decide

/-- 95_test_vectors.md V-RB-1, as far as the second burst. -/
theorem witness_RbIsFirstInFirstOut :
    (bcIdle [] false).rbQ = [] ∧
    (nextOf (runInstrs ([.pushn [1, 2, 3], .pop, .pop, .pushn [4, 5, 6]].map RbCall.instr) (bcIdle [] false))).map
      (fun t => (t.bc.fault, t.rbQ, t.out.rbReply)) = some (.none, [3, 4, 5, 6], [.byte 1, .byte 2]) := by decide

/-- A faulted BC; one byte too many; an exact fill without and with the credit. -/
theorem witness_BcIngQueuesAndFlushes :
    ([4] : List Byte) ≠ [] ∧ (bcDown [1, 2, 3] true).bc.fault ≠ .none ∧
    ((bcIdle [1, 2, 3, 4] true).bc.fault = .none ∧
      (bcIdle [1, 2, 3, 4] true).params.capacity < (bcIdle [1, 2, 3, 4] true).rbQ.length + [4].length) ∧
    ((bcIdle [1, 2, 3] false).bc.fault = .none ∧
      (bcIdle [1, 2, 3] false).rbQ.length + [4].length ≤ (bcIdle [1, 2, 3] false).params.capacity ∧
      (bcIdle [1, 2, 3] false).bc.ready = false) ∧
    ((bcIdle [] true).bc.fault = .none ∧
      (bcIdle [] true).rbQ.length + [4].length ≤ (bcIdle [] true).params.capacity ∧
      (bcIdle [] true).bc.ready = true) := by decide

theorem witness_BcFlushSendsOneChunk :
    (bcIdle [1] true).bc.fault = .none ∧ (bcIdle [1] true).bc.ready = true ∧ (bcIdle [1] true).rbQ ≠ [] := by decide

/-- A faulted BC; no credit; nothing queued. -/
theorem witness_NothingDueChangesNothing :
    (bcDown [1] true).bc.fault ≠ .none ∧ (bcIdle [1] false).bc.ready = false ∧ (bcIdle [] true).rbQ = [] := by decide

theorem witness_FramesAreWellFormed :
    (bcIdle [] true).params.wf = true ∧
    (nextOf (perform (.ingress (.ing [0xFF])) (bcIdle [] true))).map (·.out.devTx) =
      some [[0x65, 0x01, 0xFF, 0x00]] := by decide

theorem witness_BcRdyGrantsAndSpendsTheCredit :
    ((bcIdle [] false).bc.fault = .none ∧ (bcIdle [] false).bc.rxState = .awaitingNotification ∧
      (bcIdle [] false).rbQ = []) ∧
    (bcDown [1] false).bc.fault ≠ .none ∧
    ((bcIdle [1] false).bc.fault = .none ∧ (bcIdle [1] false).rbQ ≠ []) := by decide

theorem witness_BcFullAndErrWithdrawTheCredit :
    ((bcIdle [] true).params.wf = true ∧ (bcIdle [] true).bc.fault = .none ∧
      (bcIdle [] true).bc.rxState = .awaitingNotification) ∧ (bcDown [] true).bc.fault ≠ .none := by decide

theorem witness_BcDrcvAndUnkChangeNothing :
    (bcIdle [] true).params.wf = true ∧ (bcIdle [] true).bc.fault = .none ∧
    (bcIdle [] true).bc.rxState = .awaitingNotification ∧ 0x99 ∉ (bcIdle [] true).params.statusCodes := by decide

theorem witness_BcMsgExpectsTheSize :
    ((bcIdle [] true).params.wf = true ∧ (bcIdle [] true).bc.fault = .none ∧
      (bcIdle [] true).bc.rxState = .awaitingNotification) ∧ (bcDown [] true).bc.fault ≠ .none := by decide

/-- A size byte 0 and a size byte 1. -/
theorem witness_BcMsizeTakesTheSize :
    ((bcAt [] ⟨false, .messageSizeExpected, 0, [], .none⟩).bc.fault = .none ∧
      (bcAt [] ⟨false, .messageSizeExpected, 0, [], .none⟩).bc.rxState = .messageSizeExpected ∧
      (0 : Byte).toNat = 0 ∧ (1 : Byte).toNat ≠ 0) ∧ (bcDown [] true).bc.fault ≠ .none := by decide

/-- The last byte of a message, and the last but one. -/
theorem witness_BcMdataCollectsTheMessage :
    ((bcAt [] ⟨false, .messageDataExpected, 1, [7], .none⟩).bc.fault = .none ∧
      (bcAt [] ⟨false, .messageDataExpected, 1, [7], .none⟩).bc.rxState = .messageDataExpected ∧
      (0 : Byte).toNat = ((1 : Byte).toNat + 255) % 256) ∧
    ((bcAt [] ⟨false, .messageDataExpected, 2, [7], .none⟩).bc.fault = .none ∧
      (1 : Byte).toNat = ((2 : Byte).toNat + 255) % 256) ∧
    (bcDown [] true).bc.fault ≠ .none := by decide

theorem witness_MessageBecomesACommand :
    (bcIdle [] false).params.wf = true ∧ (bcIdle [] false).bc.fault = .none ∧
    (bcIdle [] false).bc.rxState = .awaitingNotification ∧ (bcIdle [] false).bc.msgRemaining = 0 ∧
    (bcIdle [] false).bc.msgBuf = [] ∧ ([0x72, 0x0A] : List Byte).length ≤ 255 := by decide

theorem witness_PpLooksForTheMarkers :
    (ppAt PpRegs.reset).pp.state = .start ∧ 0xBB = (ppAt PpRegs.reset).params.ppStart ∧
    0x88 ≠ (ppAt PpRegs.reset).params.ppStart ∧ (ppAt ⟨.leadIn, 0, 0, 0, 0, 0, [], 0⟩).pp.state = .leadIn ∧
    0x88 = (ppAt ⟨.leadIn, 0, 0, 0, 0, 0, [], 0⟩).params.ppLeadin ∧
    0xBB ≠ (ppAt ⟨.leadIn, 0, 0, 0, 0, 0, [], 0⟩).params.ppLeadin := by decide

theorem witness_PpAddrSplitsTheByte : (ppAt ⟨.address, 0, 0, 0, 0, 0, [], 0⟩).pp.state = .address := by decide

/-- Size 9, 8, 0 against the limit 8. -/
theorem witness_PpSizeAcceptsOrDiscards :
    (ppAt ⟨.size, 5, 3, 0, 0, 0xA3, [], 0⟩).pp.state = .size ∧
    { p4 with ppMaxSize := 8 }.ppMaxSize < (9 : Byte).toNat ∧
    ((8 : Byte).toNat ≤ { p4 with ppMaxSize := 8 }.ppMaxSize ∧ (8 : Byte).toNat ≠ 0) ∧
    ((0 : Byte).toNat ≤ { p4 with ppMaxSize := 8 }.ppMaxSize ∧ (0 : Byte).toNat = 0) := by decide

theorem witness_PpDataCollectsThePayload : (ppAt ⟨.data, 5, 3, 2, 1, 0xB5, [0x10], 0⟩).pp.state = .data := by decide

theorem witness_PpCksumEmitsOrDiscards :
    (ppAt ⟨.checksum, 5, 3, 0, 0, 0xA3, [], 0⟩).pp.state = .checksum ∧
    0xA3 = (ppAt ⟨.checksum, 5, 3, 0, 0, 0xA3, [], 0⟩).pp.sum ∧
    0xA2 ≠ (ppAt ⟨.checksum, 5, 3, 0, 0, 0xA3, [], 0⟩).pp.sum := by decide

/-- A payload of no byte, and one of the largest size `PP_MAX_SIZE = 2` admits. -/
theorem witness_GoodPacketIsEmitted :
    (ppAt PpRegs.reset).pp.state = .start ∧
    ([] : List Byte).length ≤ { p4 with ppMaxSize := 2 }.ppMaxSize ∧
    ([0x10, 0x20] : List Byte).length ≤ { p4 with ppMaxSize := 2 }.ppMaxSize ∧
    { p4 with ppMaxSize := 2 }.ppMaxSize ≤ 255 := by decide

theorem witness_BitFlipRejectsThePacket :
    (ppAt PpRegs.reset).pp.state = .start ∧ ([0x10, 0x20] : List Byte).length ≤ (ppAt PpRegs.reset).params.ppMaxSize ∧
    (ppAt PpRegs.reset).params.ppMaxSize ≤ 255 ∧ ([0x10, 0x20] : List Byte) = [0x10] ++ 0x20 :: [] := by decide

/-- 95_test_vectors.md S2: the two cells at 0x0004. -/
theorem witness_RecordIsDecoded :
    (spAt ⟨.addressLow, 0, 0, 0, 0⟩).sp.state = .addressLow ∧ (0x0004 : Half) ≠ 0x5555 ∧
    ([0x1021, 0x3142] : List Half) ≠ [] ∧ ([0x1021, 0x3142] : List Half).length ≤ 32768 ∧
    recordBytes 0x0004 [0x1021, 0x3142] = [0x04, 0x00, 0x04, 0x00, 0x21, 0x10, 0x42, 0x31] ∧
    noMarker (spAt ⟨.addressLow, 0, 0, 0, 0⟩).sp.syncRun.toNat (recordBytes 0x0004 [0x1021, 0x3142]) = true := by
  decide

theorem witness_SyncRunLengths : (spAt SpRegs.reset).sp.state = .waitForSync ∧ (spAt SpRegs.reset).sp.syncRun = 0 := by
  decide

theorem witness_MarkerResynchronises : (0x00 : Byte) ≠ 0x55 := by decide

theorem witness_OddCountNeverEnds :
    (spAt ⟨.dataLow, 0, 1, 0, 0⟩).sp.state = .dataLow ∧ (spAt ⟨.dataLow, 0, 1, 0, 0⟩).sp.count.toNat % 2 = 1 ∧
    noMarker (spAt ⟨.dataLow, 0, 1, 0, 0⟩).sp.syncRun.toNat
      (([(0x11, 0x22), (0x33, 0x44)] : List (Byte × Byte)).flatMap fun c => [c.1, c.2]) = true := by decide

/-- A ready byte to a running BC; the same to a faulted one; nothing scheduled. -/
theorem witness_StepRunsTheSelectedOperation :
    p4.wf = true ∧
    ((withEvents [.device (.drx 0x72)] (bcIdle [1] false)).env = Env.empty.cons (.device (.drx 0x72)) ∧
      decode (.device (.drx 0x72)) (withEvents [.device (.drx 0x72)] (bcIdle [1] false)).selector = .op .bcRdy) ∧
    decode (.device (.drx 0x72)) (withEvents [.device (.drx 0x72)] (bcDown [1] false)).selector =
      .dropped .busControllerHalted ∧
    (bcIdle [1] false).env.schedule = [] := by decide

/-- The smallest legal parameters and the largest; and illegal ones. -/
theorem witness_OnlyLegalParametersRun :
    { p4 with capacity := 1, maxPayload := 1, ppMaxSize := 0 }.wf = true ∧
    { p4 with maxPayload := 255, ppMaxSize := 255 }.wf = true ∧ { p4 with capacity := 0 }.wf = false := by decide

theorem witness_PlacedProgramRunsInOrder : (bcIdle [] false).params.wf = true := by decide

theorem witness_AgentsAreSerialised : (bcIdle [] false).params.wf = true := by decide

theorem witness_DecodeOfEncode :
    Selector.ofTable.params.wf = true ∧ Instr.wf Selector.ofTable.params .bcFull = true ∧
    encode Selector.ofTable.params .bcFull = some ⟨.device (.drx 0x74), .rx .awaitingNotification⟩ ∧
    Selector.ofTable.admits (.rx .awaitingNotification) = true := by decide

theorem witness_EncodeOfDecode :
    decode (.device (.drx 0x99)) Selector.ofTable = .op (.bcUnk 0x99) ∧
    (.device (.drx 0x99) : Event) ≠ .ingress (.ing []) := by decide

theorem witness_InternalOperationsAreNotSelected :
    decode (.host .reset) Selector.ofTable = .op .reset ∧
    decode (.device (.drx 0x72)) { Selector.ofTable with halted := true } = .dropped .busControllerHalted := by decide

theorem inv_idle : Inv (withEvents [.ingress (.ing [1])] (bcIdle [] true)) := by
  constructor <;> decide

/-- The invariant holds of a state with an event to deliver, whose step sends a frame; and of a faulted one. -/
theorem witness_StepKeepsTheInvariants :
    Inv (withEvents [.ingress (.ing [1])] (bcIdle [] true)) ∧
    (nextOf (step (withEvents [.ingress (.ing [1])] (bcIdle [] true)))).map (·.out.devTx) =
      some [[0x65, 0x01, 0x01, 0x02]] ∧
    (bcDown [1] true).bc.fault ≠ .none ∧
    (takeEvent (withEvents [.ingress (.ing [1])] (bcDown [1] true)).env).1 ≠ some (.host .reset) :=
  ⟨inv_idle, by decide, by decide, by decide⟩

theorem witness_ResetMeetsTheInvariants : (nextOf (exec .reset (bcDown [1] true))).isSome = true := by decide

/-- A register that awaits its high byte at its largest value; and a step. -/
theorem witness_HighByteNeverCarries :
    (spAt ⟨.addressHigh, 0xFF, 0, 0, 0⟩).sp.address.toNat < 256 ∧
    (spAt ⟨.countHigh, 0, 0xFF, 0, 0⟩).sp.count.toNat < 256 ∧
    (spAt ⟨.dataHigh, 0, 0, 0xFF, 0⟩).sp.value.toNat < 256 ∧
    (nextOf (step (withEvents [.ingress (.spb 1)] (spAt ⟨.addressHigh, 0xFF, 0, 0, 0⟩)))).map (·.sp.address) =
      some 0x01FF := by decide

theorem witness_FaultedBusControllerIsDeaf : (bcDown [1] true).bc.fault ≠ .none ∧
    (nextOf (perform (.ingress (.spb 0x55)) (bcDown [1] true))).map (·.sp.syncRun) = some 1 := by decide

theorem witness_FaultsComeFromIngressOnly : (bcIdle [1, 2, 3, 4] true).bc.fault = .none ∧
    (nextOf (perform (.ingress (.ing [5])) (bcIdle [1, 2, 3, 4] true))).map (·.bc.fault) = some .overflow := by decide

theorem witness_OnlyReadyGrantsCredit : (bcIdle [] false).bc.ready = false ∧
    (nextOf (perform (.device (.drx 0x72)) (bcIdle [] false))).map (·.bc.ready) = some true := by decide

theorem witness_NoReadyNoFrame : (bcIdle [] false).bc.ready = false ∧
    ([.ingress (.ing [1]), .ingress (.ing [2])] : List Event).all noDeviceByte = true ∧
    (nextOf (runEvents [.ingress (.ing [1]), .ingress (.ing [2])] (bcIdle [] false))).map (·.rbQ) =
      some [1, 2] := by decide

theorem witness_FramesAreBoundedByReadies :
    (nextOf (runEvents [.ingress (.ing [1]), .device (.drx 0x72)] (bcIdle [] false))).map (·.out.devTx.length) =
      some 1 := by decide

theorem witness_IngressBytesAreConserved :
    (bcIdle [] false).params.wf = true ∧ noReset [.ingress (.ing [1]), .device (.drx 0x72)] = true ∧
    (nextOf (runEvents [.ingress (.ing [1]), .device (.drx 0x72)] (bcIdle [] false))).map (·.bc.fault) =
      some .none := by decide

/-- A queue that is empty, and one that is not; the burst fills the buffer. -/
theorem witness_ReadyAndBurstInEitherOrder :
    ([4] : List Byte) ≠ [] ∧ (bcIdle [1, 2, 3] false).params.wf = true ∧ (bcIdle [1, 2, 3] false).bc.fault = .none ∧
    (bcIdle [1, 2, 3] false).bc.ready = false ∧ (bcIdle [1, 2, 3] false).bc.rxState = .awaitingNotification ∧
    (bcIdle [1, 2, 3] false).rbQ.length + [4].length ≤ (bcIdle [1, 2, 3] false).params.capacity ∧
    (bcIdle [1, 2, 3] false).rbQ ≠ [] ∧ (bcIdle [] false).rbQ = [] := by decide

theorem witness_UnitsShareNoState :
    (nextOf (perform (.ingress (.spb 0x55)) (bcIdle [1] false))).isSome = true ∧
    (nextOf (perform (.ingress (.ing [2])) (bcIdle [1] false))).isSome = true ∧
    (nextOf (perform (.device (.drx 0x72)) (bcIdle [1] false))).isSome = true ∧
    (nextOf (perform (.device (.prx 0xBB)) (bcIdle [1] false))).isSome = true ∧
    (nextOf (perform (.host (.query .size)) (bcIdle [1] false))).isSome = true := by decide

/-- Two machines that differ in the queue, and two runs that differ in the burst between the bytes. -/
theorem witness_StreamParserIsIndependent :
    noReset [.ingress (.spb 0x55)] = true ∧ noReset [.ingress (.ing [9]), .ingress (.spb 0x55)] = true ∧
    spBytesOf [.ingress (.spb 0x55)] = spBytesOf [.ingress (.ing [9]), .ingress (.spb 0x55)] ∧
    (bcIdle [1] false).sp = (bcIdle [2] true).sp ∧
    (nextOf (runEvents [.ingress (.spb 0x55)] (bcIdle [1] false))).isSome = true ∧
    (nextOf (runEvents [.ingress (.ing [9]), .ingress (.spb 0x55)] (bcIdle [2] true))).isSome = true := by decide

/-- A circular buffer of four whose contents wrap, full; and one that is empty. -/
theorem witness_CircularBufferRefinesTheQueue :
    ([9, 9, 9, 9] : List Byte) ≠ [] ∧
    ((⟨[3, 4, 1, 2], 2, 4⟩ : Circular).wf = true ∧
      (⟨[3, 4, 1, 2], 2, 4⟩ : Circular).queue = (bcIdle [1, 2, 3, 4] false).rbQ ∧
      (⟨[3, 4, 1, 2], 2, 4⟩ : Circular).mem.length = (bcIdle [1, 2, 3, 4] false).params.capacity) ∧
    ((⟨[3, 4, 1, 2], 2, 0⟩ : Circular).wf = true ∧
      (⟨[3, 4, 1, 2], 2, 0⟩ : Circular).queue = (bcIdle [] false).rbQ) := by decide

theorem witness_StatusViewShowsTheState :
    (bcIdle [] false).bc.fault = .none ∧ (bcDown [] false).bc.fault = .overflow ∧
    (bcIdle [] false).params.hasDiscardCounter = true := by decide

end Sys2Proof.Tests
end

/-! PROOFS. The circular buffer of 10_state.md R30 refines `rb_q`. -/

namespace Sys2Proof.Machine

namespace Circular

variable {c : Circular}

theorem wf_iff : c.wf = true ↔ 0 < c.mem.length ∧ c.rd < c.mem.length ∧ c.size ≤ c.mem.length := by
  simp [wf, and_assoc]

@[simp] theorem queue_length : c.queue.length = c.size := by simp [queue]

/-- A cell is addressed modulo the capacity, so a read pointer may be reduced before or after the addition. -/
theorem cell_mod_add (i j : Nat) : c.cell (i % c.mem.length + j) = c.cell (i + j) := by
  simp [cell]

/-- What is read at an offset after a write at an offset of the same storage: the byte written, or the old cell. -/
theorem getD_set_mod {mem : List Byte} (hpos : 0 < mem.length) (i j : Nat) (b : Byte) :
    (mem.set (i % mem.length) b).getD (j % mem.length) 0 =
      if i % mem.length = j % mem.length then b else mem.getD (j % mem.length) 0 := by
  have hi : i % mem.length < mem.length := Nat.mod_lt _ hpos
  simp only [List.getD_eq_getElem?_getD, List.getElem?_set, if_pos hi]
  split <;> rfl

/-- Two offsets from the read pointer, both below the capacity, name the same cell only when they are equal. -/
theorem offset_injective {n rd i j : Nat} (hi : i < n) (hj : j < n) (h : (rd + i) % n = (rd + j) % n) : i = j :=
  Nat.ModEq.eq_of_lt_of_lt (Nat.ModEq.add_left_cancel' rd h) hi hj

theorem push_of_full (b : Byte) (h : c.size = c.mem.length) : c.push b = none := if_pos h

/-- A push with room keeps the form and the capacity, and appends the byte: it writes the first cell outside
the queue. -/
theorem push_of_room (b : Byte) (hwf : c.wf = true) (h : c.size < c.mem.length) :
    ∃ c', c.push b = some c' ∧ c'.wf = true ∧ c'.mem.length = c.mem.length ∧ c'.queue = c.queue ++ [b] := by
  obtain ⟨hpos, hrd, -⟩ := wf_iff.mp hwf
  refine ⟨_, if_neg h.ne, wf_iff.mpr (by simp; omega), by simp, ?_⟩
  have hold : ∀ i ∈ List.range c.size, (c.rd + c.size) % c.mem.length ≠ (c.rd + i) % c.mem.length := by
    intro i hi heq
    have hlt : i < c.size := List.mem_range.mp hi
    exact absurd (offset_injective h (hlt.trans h) heq) hlt.ne'
  simp only [queue, cell, List.range_succ, List.map_append, List.length_set, getD_set_mod hpos, List.map_singleton,
    if_pos]
  congr 1
  exact List.map_congr_left fun i hi => if_neg (hold i hi)

theorem pop_of_empty (h : c.size = 0) : c.pop = none := if_pos h

/-- A pop of a non-empty buffer keeps the form and the capacity, and takes the oldest byte of the queue. -/
theorem pop_of_nonempty (hwf : c.wf = true) (h : c.size ≠ 0) :
    ∃ b c', c.pop = some (b, c') ∧ c'.wf = true ∧ c'.mem.length = c.mem.length ∧ c.queue = b :: c'.queue := by
  obtain ⟨hpos, -, hsize⟩ := wf_iff.mp hwf
  refine ⟨_, _, if_neg h, wf_iff.mpr ⟨hpos, Nat.mod_lt _ hpos, (Nat.sub_le _ _).trans hsize⟩, rfl, ?_⟩
  obtain ⟨n, hn⟩ := Nat.exists_eq_succ_of_ne_zero h
  have hshift : ∀ i, c.cell (c.rd + (i + 1)) = c.cell ((c.rd + 1) % c.mem.length + i) := fun i => by
    rw [cell_mod_add, Nat.add_assoc, Nat.add_comm 1 i]
  simp only [queue, hn, List.range_succ_eq_map, List.map_cons, List.map_map]
  exact congrArg (c.cell c.rd :: ·) (List.map_congr_left fun i _ => hshift i)

theorem reset_wf {mem : List Byte} (h : mem ≠ []) : (reset mem).wf = true :=
  have hpos := List.length_pos_iff.mpr h
  wf_iff.mpr ⟨hpos, hpos, Nat.zero_le _⟩

end Circular

/-- Settles O59: the buffer's size is the queue's length, so both are full, or both empty, at once; otherwise the
specification lemma of the buffer's push or pop gives the queue that RB's leaves. -/
theorem circularBufferRefinesTheQueue : Obligations.CircularBufferRefinesTheQueue := by
  refine ⟨fun mem hmem => ⟨Circular.reset_wf hmem, rfl⟩, fun c s hwf hq hcap => ?_⟩
  obtain ⟨-, -, hsize⟩ := Circular.wf_iff.mp hwf
  have hlen : c.size = s.rbQ.length := by rw [← hq, Circular.queue_length]
  refine ⟨fun b => ?_, ?_⟩
  · rcases rbPush_cases [b] s with ⟨hfits, hrb⟩ | ⟨hover, hrb⟩
    · rw [List.length_singleton] at hfits
      obtain ⟨c', hpush, hwf', hlen', hqueue⟩ := Circular.push_of_room b hwf (by omega)
      rw [hpush, hrb]
      exact ⟨hwf', hlen', by rw [hqueue, hq, setRbQ_rbQ]⟩
    · rw [List.length_singleton] at hover
      rw [Circular.push_of_full b (by omega), hrb]
      trivial
  · rcases rbPop_cases s with ⟨b, q, hrbQ, hrb⟩ | ⟨hrbQ, hrb⟩
    · obtain ⟨b', c', hpop, hwf', hlen', hqueue⟩ := Circular.pop_of_nonempty hwf (by simp [hlen, hrbQ])
      obtain ⟨rfl, rfl⟩ : b' = b ∧ c'.queue = q := List.cons.inj (by rw [← hqueue, hq, hrbQ])
      rw [hpop, hrb]
      exact ⟨rfl, hwf', hlen', rfl⟩
    · rw [Circular.pop_of_empty (by simp [hlen, hrbQ]), hrb]
      trivial

end Sys2Proof.Machine

/-! PROOFS. What an event on each port can write (10_state.md R45), and the reset values (R52). -/

namespace Sys2Proof.Machine

/-- Settles O1: the reset table is the definition of the reset registers. -/
theorem resetHoldsTheResetValues : Obligations.ResetHoldsTheResetValues :=
  ⟨fun _ => ⟨rfl, rfl, rfl, rfl⟩, Params.atReset, rfl⟩

/-! ### SP -/

/-- All that SP can do to a state: new registers, and events appended to `sp_evt`. -/
def spOutcome (r : SpRegs) (new : List SpEvent) (s : State) : State :=
  { s with sp := r, out := { s.out with spEvt := s.out.spEvt ++ new } }

@[simp] theorem spOutcome_sp (r : SpRegs) (new : List SpEvent) (s : State) : (spOutcome r new s).sp = r := rfl

@[simp] theorem spOutcome_spEvt (r : SpRegs) (new : List SpEvent) (s : State) :
    (spOutcome r new s).out.spEvt = s.out.spEvt ++ new := rfl

theorem spOutcome_spOutcome (r₁ r₂ : SpRegs) (new₁ new₂ : List SpEvent) (s : State) :
    spOutcome r₂ new₂ (spOutcome r₁ new₁ s) = spOutcome r₂ (new₁ ++ new₂) s := by
  simp [spOutcome]

theorem setSp_eq_spOutcome (r : SpRegs) (s : State) : setSp r s = spOutcome r [] s := by
  simp [setSp, spOutcome]

theorem setSp_emitSp_eq_spOutcome (r : SpRegs) (e : SpEvent) (s : State) :
    setSp r (emitSp e s) = spOutcome r [e] s := rfl

/-- The outcome of a byte on `sp_in` is a function of the byte and SP's registers. The witnesses of the two existentials
are read off the equation, operation by operation. -/
theorem spByte_eq_spOutcome (b : Byte) (r : SpRegs) :
    ∃ r' new, ∀ s : State, s.sp = r → spByte b s = spOutcome r' new s := by
  cases hstate : r.state
  case dataHigh =>
    by_cases hend : r.count - 1 = 0
    all_goals
      constructor
      constructor
      intro s hs
      simp only [spByte, hs, hstate, spDath, hend, if_true, if_false]
      exact setSp_emitSp_eq_spOutcome _ _ s
  all_goals
    constructor
    constructor
    intro s hs
    simp only [spByte, hs, hstate, spWfs, spAddrl, spAddrh, spCntl, spCnth, spDatl]
    exact setSp_eq_spOutcome _ s

/-- The same of a sequence of bytes, by induction on it. -/
theorem spBytes_eq_spOutcome (bs : List Byte) (r : SpRegs) :
    ∃ r' new, ∀ s : State, s.sp = r → spBytes bs s = spOutcome r' new s := by
  induction bs generalizing r with
  | nil =>
    refine ⟨r, [], ?_⟩
    rintro s rfl
    exact setSp_eq_spOutcome s.sp s
  | cons b bs ih =>
    obtain ⟨r₁, new₁, hbyte⟩ := spByte_eq_spOutcome b r
    obtain ⟨r₂, new₂, hrest⟩ := ih r₁
    refine ⟨r₂, new₁ ++ new₂, fun s hs => ?_⟩
    rw [spBytes, hbyte s hs, hrest _ rfl, spOutcome_spOutcome]

theorem perform_spb_writes {b : Byte} {s t : State} (h : perform (.ingress (.spb b)) s = .next t) :
    t = { s with sp := t.sp, out := { s.out with spEvt := t.out.spEvt } } := by
  obtain ⟨r, new, hbyte⟩ := spByte_eq_spOutcome b s.sp
  rw [perform_spb, hbyte s rfl] at h
  cases h
  rfl

/-! ### RB and BC -/

/-- A BC or RB operation performs its body or does nothing. -/
theorem whileRunning_eq_or (f : State → State) (s : State) : whileRunning f s = f s ∨ whileRunning f s = s := by
  by_cases h : s.bc.fault = .none
  · exact .inl (whileRunning_of_running h)
  · exact .inr (whileRunning_of_faulted h)

/-- What a burst may write: the queue, the credit, the fault and `dev_tx`. -/
def IngestFrame (s t : State) : Prop :=
  t = { s with
    rbQ := t.rbQ, bc := { s.bc with ready := t.bc.ready, fault := t.bc.fault },
    out := { s.out with devTx := t.out.devTx } }

theorem ingestFrame_refl (s : State) : IngestFrame s s := rfl

theorem ingest_frame (bs : List Byte) (s : State) : IngestFrame s (ingest bs s) := by
  rcases ingest_cases bs s with ⟨-, e⟩ | ⟨-, -, e⟩ | ⟨-, -, -, e⟩
  · rw [e]; rfl
  · rw [e]; rfl
  · rw [e, sendChunk_eq]; rfl

theorem perform_ing_writes {bs : List Byte} {s t : State} (h : perform (.ingress (.ing bs)) s = .next t) :
    IngestFrame s t := by
  have ht : (if bs.isEmpty then s else whileRunning (ingest bs) s) = t := Host.Outcome.next.inj h
  subst ht
  split
  · exact ingestFrame_refl s
  · rcases whileRunning_eq_or (ingest bs) s with e | e
    · rw [e]; exact ingest_frame bs s
    · rw [e]; exact ingestFrame_refl s

/-- What a byte from the device may write: the queue, BC's registers, `dev_tx` and `cmd_out`. -/
def BusFrame (s t : State) : Prop :=
  t = { s with rbQ := t.rbQ, bc := t.bc, out := { s.out with devTx := t.out.devTx, cmdOut := t.out.cmdOut } }

theorem busFrame_refl (s : State) : BusFrame s s := rfl

theorem setReady_busFrame (v : Bool) (s : State) : BusFrame s (setReady v s) := rfl

theorem setBc_busFrame (r : BcRegs) (s : State) : BusFrame s (setBc r s) := rfl

theorem flushIfDue_setReady_busFrame (s : State) : BusFrame s (flushIfDue (setReady true s)) := by
  rcases flushIfDue_cases (setReady true s) with ⟨-, -, e⟩ | ⟨-, e⟩
  · rw [e, sendChunk_eq]; rfl
  · rw [e]; rfl

theorem messageSize_busFrame (b : Byte) (s : State) : BusFrame s (messageSize b s) := by
  unfold messageSize
  split <;> rfl

theorem messageData_busFrame (b : Byte) (s : State) : BusFrame s (messageData b s) := by
  simp only [messageData]
  split <;> rfl

theorem whileRunning_busFrame {f : State → State} (hf : ∀ s, BusFrame s (f s)) (s : State) :
    BusFrame s (whileRunning f s) := by
  rcases whileRunning_eq_or f s with e | e
  · rw [e]; exact hf s
  · rw [e]; exact busFrame_refl s

/-- Each of the eight operations that a byte on `dev_rx` can select keeps the frame. -/
theorem exec_selectDev_busFrame (p : Params) (st : BcRxState) (b : Byte) (s : State) :
    ∃ t, exec (selectDev p st b) s = .next t ∧ BusFrame s t := by
  cases st with
  | awaitingNotification =>
    simp only [selectDev, selectStatus]
    split_ifs
    · exact ⟨_, rfl, whileRunning_busFrame flushIfDue_setReady_busFrame s⟩
    · exact ⟨_, rfl, whileRunning_busFrame (setReady_busFrame false) s⟩
    · exact ⟨_, rfl, busFrame_refl s⟩
    · exact ⟨_, rfl, whileRunning_busFrame (setReady_busFrame false) s⟩
    · exact ⟨_, rfl, whileRunning_busFrame (fun t => setBc_busFrame _ t) s⟩
    · exact ⟨_, rfl, busFrame_refl s⟩
  | messageSizeExpected => exact ⟨_, rfl, whileRunning_busFrame (messageSize_busFrame b) s⟩
  | messageDataExpected => exact ⟨_, rfl, whileRunning_busFrame (messageData_busFrame b) s⟩

theorem perform_drx_writes {b : Byte} {s t : State} (h : perform (.device (.drx b)) s = .next t) :
    BusFrame s t := by
  by_cases hrun : s.bc.fault = .none
  · obtain ⟨u, hu, hframe⟩ := exec_selectDev_busFrame s.params s.bc.rxState b s
    rw [perform_drx b s hrun, hu] at h
    cases h
    exact hframe
  · rw [perform_drx_faulted b s hrun] at h
    cases h
    exact busFrame_refl s

/-! ### PP and the queries -/

/-- What a byte on `pkt_rx` may write: PP's registers and `pkt_out`. -/
def PacketFrame (s t : State) : Prop := t = { s with pp := t.pp, out := { s.out with pktOut := t.out.pktOut } }

theorem packetFrame_refl (s : State) : PacketFrame s s := rfl

theorem setPp_packetFrame (r : PpRegs) (s : State) : PacketFrame s (setPp r s) := rfl

theorem setPp_emitPacket_packetFrame (r : PpRegs) (p : Packet) (s : State) :
    PacketFrame s (setPp r (emitPacket p s)) := rfl

/-- A branch of an operation keeps a frame when both its outcomes do. -/
theorem ite_packetFrame {c : Prop} [Decidable c] {s t u : State} (ht : PacketFrame s t) (hu : PacketFrame s u) :
    PacketFrame s (if c then t else u) := by
  split
  · exact ht
  · exact hu

/-- Each of the six operations of PP keeps the frame. -/
theorem exec_selectPp_packetFrame (st : PpState) (b : Byte) (s : State) :
    ∃ t, exec (selectPp st b) s = .next t ∧ PacketFrame s t := by
  cases st with
  | start => exact ⟨_, rfl, ite_packetFrame (setPp_packetFrame _ s) (packetFrame_refl s)⟩
  | leadIn => exact ⟨_, rfl, ite_packetFrame (setPp_packetFrame _ s) (setPp_packetFrame _ s)⟩
  | address => exact ⟨_, rfl, setPp_packetFrame _ s⟩
  | size => exact ⟨_, rfl, setPp_packetFrame _ s⟩
  | data => exact ⟨_, rfl, setPp_packetFrame _ s⟩
  | checksum => exact ⟨_, rfl, ite_packetFrame (setPp_emitPacket_packetFrame _ _ s) (setPp_packetFrame _ s)⟩

theorem perform_prx_writes {b : Byte} {s t : State} (h : perform (.device (.prx b)) s = .next t) :
    PacketFrame s t := by
  obtain ⟨u, hu, hframe⟩ := exec_selectPp_packetFrame s.pp.state b s
  rw [perform_prx, hu] at h
  cases h
  exact hframe

/-- A query writes the log of its replies only. -/
theorem perform_query_writes {q : RbQuery} {s t : State} (h : perform (.host (.query q)) s = .next t) :
    t = { s with out := { s.out with rbReply := t.out.rbReply } } := by
  cases q <;> (cases h; rfl)

/-- Settles O57, port by port. -/
theorem unitsShareNoState : Obligations.UnitsShareNoState := fun _ _ =>
  ⟨fun _ => perform_spb_writes, fun _ => perform_ing_writes, fun _ => perform_drx_writes,
    fun _ => perform_prx_writes, fun _ => perform_query_writes⟩

end Sys2Proof.Machine

/-! PROOFS. A run acts on SP as its bytes on `sp_in` alone do (10_state.md R45). -/

namespace Sys2Proof.Machine

/-- No event but a byte on `sp_in` and `RESET` touches SP or its log. -/
theorem perform_keeps_sp {ev : Event} {s t : State} (hreset : ev ≠ .host .reset)
    (hspb : ∀ b, ev ≠ .ingress (.spb b)) (h : perform ev s = .next t) :
    t.sp = s.sp ∧ t.out.spEvt = s.out.spEvt := by
  match ev with
  | .ingress (.spb b) => exact absurd rfl (hspb b)
  | .ingress (.ing _) => rw [perform_ing_writes h]; exact ⟨rfl, rfl⟩
  | .device (.drx _) => rw [perform_drx_writes h]; exact ⟨rfl, rfl⟩
  | .device (.prx _) => rw [perform_prx_writes h]; exact ⟨rfl, rfl⟩
  | .host .reset => exact absurd rfl hreset
  | .host (.query _) => rw [perform_query_writes h]; exact ⟨rfl, rfl⟩

theorem noReset_cons (ev : Event) (evs : List Event) :
    noReset (ev :: evs) = true ↔ ev ≠ .host .reset ∧ noReset evs = true := by
  simp [noReset]

theorem spBytesOf_cons_of_ne {ev : Event} (evs : List Event) (hspb : ∀ b, ev ≠ .ingress (.spb b)) :
    spBytesOf (ev :: evs) = spBytesOf evs := by
  rw [spBytesOf]
  rintro b rfl
  exact hspb b rfl

/-- A run without `RESET` leaves SP and its log as `SP.BUF` of the run's bytes on `sp_in` does, by
induction on the run. -/
theorem runEvents_sp_eq_spBytes {evs : List Event} {s t : State} (hno : noReset evs = true)
    (h : runEvents evs s = .next t) :
    t.sp = (spBytes (spBytesOf evs) s).sp ∧ t.out.spEvt = (spBytes (spBytesOf evs) s).out.spEvt := by
  induction evs generalizing s with
  | nil => cases h; exact ⟨rfl, rfl⟩
  | cons ev evs ih =>
    obtain ⟨hreset, hno⟩ := (noReset_cons ev evs).mp hno
    obtain ⟨u, hu, hrun⟩ := runEvents_cons h
    obtain ⟨hsp, hevt⟩ := ih hno hrun
    by_cases hspb : ∃ b, ev = .ingress (.spb b)
    · obtain ⟨b, rfl⟩ := hspb
      rw [perform_spb] at hu
      cases hu
      exact ⟨hsp, hevt⟩
    · have hne : ∀ b, ev ≠ .ingress (.spb b) := not_exists.mp hspb
      obtain ⟨husp, huevt⟩ := perform_keeps_sp hreset hne hu
      obtain ⟨r, new, hbytes⟩ := spBytes_eq_spOutcome (spBytesOf evs) s.sp
      rw [hbytes u husp] at hsp hevt
      rw [spBytesOf_cons_of_ne evs hne, hbytes s rfl, hsp, hevt, spOutcome_spEvt, spOutcome_spEvt, huevt]
      exact ⟨rfl, rfl⟩

/-- Settles O58: both runs act on SP as the same bytes do, and what bytes do to SP is a function of its registers. -/
theorem streamParserIsIndependent : Obligations.StreamParserIsIndependent := by
  intro evs fvs s t s' t' hevs hfvs hbytes hsp hs ht
  obtain ⟨hs_sp, hs_evt⟩ := runEvents_sp_eq_spBytes hevs hs
  obtain ⟨ht_sp, ht_evt⟩ := runEvents_sp_eq_spBytes hfvs ht
  obtain ⟨r, new, hout⟩ := spBytes_eq_spOutcome (spBytesOf evs) s.sp
  rw [hout s rfl] at hs_sp hs_evt
  rw [← hbytes, hout t hsp.symm] at ht_sp ht_evt
  exact ⟨hs_sp.trans ht_sp.symm, new, hs_evt, ht_evt⟩

end Sys2Proof.Machine

/-! PROOFS. What crosses BC from `ing` to `dev_tx` (20_memory.md R73): no byte is dropped, duplicated or reordered. -/

namespace Sys2Proof.Machine

/-! ### The operations of a byte on `dev_rx`, and the parameters -/

/-- What a byte on `dev_rx` can make a running BC do, besides nothing (42_bus_controller.md R168 to R175). -/
inductive BusBody (b : Byte) : (State → State) → Prop
  | grant : BusBody b fun s => flushIfDue (setReady true s)
  | withdraw : BusBody b (setReady false)
  | announce : BusBody b fun s => setBc { s.bc with rxState := .messageSizeExpected } s
  | size : BusBody b (messageSize b)
  | data : BusBody b (messageData b)

/-- A byte on `dev_rx` selects an operation that does nothing, or one that performs its body while BC runs. -/
theorem exec_selectDev_cases (p : Params) (st : BcRxState) (b : Byte) :
    (∀ s, exec (selectDev p st b) s = .next s) ∨
    ∃ f, BusBody b f ∧ ∀ s, exec (selectDev p st b) s = .next (whileRunning f s) := by
  cases st with
  | awaitingNotification =>
    simp only [selectDev, selectStatus]
    split_ifs
    · exact .inr ⟨_, .grant, fun _ => rfl⟩
    · exact .inr ⟨_, .withdraw, fun _ => rfl⟩
    · exact .inl fun _ => rfl
    · exact .inr ⟨_, .withdraw, fun _ => rfl⟩
    · exact .inr ⟨_, .announce, fun _ => rfl⟩
    · exact .inl fun _ => rfl
  | messageSizeExpected => exact .inr ⟨_, .size, fun _ => rfl⟩
  | messageDataExpected => exact .inr ⟨_, .data, fun _ => rfl⟩

/-- No event writes the parameters (10_state.md R21). -/
theorem perform_params {ev : Event} {s t : State} (h : perform ev s = .next t) : t.params = s.params := by
  match ev with
  | .ingress (.spb _) => rw [perform_spb_writes h]
  | .ingress (.ing _) => rw [perform_ing_writes h]
  | .device (.drx _) => rw [perform_drx_writes h]
  | .device (.prx _) => rw [perform_prx_writes h]
  | .host .reset => cases h; rfl
  | .host (.query _) => rw [perform_query_writes h]

/-! ### Conservation, operation by operation -/

/-- The data of a frame is the chunk it was made of. -/
@[simp] theorem framePayload_outboundFrame (p : Params) (chunk : List Byte) :
    framePayload p (outboundFrame p chunk) = chunk := by
  simp [framePayload, outboundFrame, ← List.drop_drop]

/-- From `s` to an unfaulted `t`, with the bytes `bs` arriving on `ing`: BC was not faulted before, and the data of the
frames sent, followed by the queue, is the queue before followed by `bs`. -/
def Conserves (bs : List Byte) (s t : State) : Prop :=
  t.bc.fault = .none → s.bc.fault = .none ∧
    ∃ frames : List (List Byte), t.out.devTx = s.out.devTx ++ frames ∧
      (frames.map (framePayload s.params)).flatten ++ t.rbQ = s.rbQ ++ bs

theorem Conserves.of_unchanged {s t : State} (hfault : t.bc.fault = s.bc.fault) (htx : t.out.devTx = s.out.devTx)
    (hq : t.rbQ = s.rbQ) : Conserves [] s t :=
  fun h => ⟨hfault ▸ h, [], by simp [htx], by simp [hq]⟩

theorem Conserves.refl (s : State) : Conserves [] s s := .of_unchanged rfl rfl rfl

/-- The bytes of two runs in a row: what the first leaves queued, the second sends first. -/
theorem Conserves.trans {bs cs : List Byte} {s u t : State} (hsu : Conserves bs s u) (hut : Conserves cs u t)
    (hp : u.params = s.params) : Conserves (bs ++ cs) s t := by
  intro ht
  obtain ⟨hu, fs₂, htx₂, hbytes₂⟩ := hut ht
  obtain ⟨hs, fs₁, htx₁, hbytes₁⟩ := hsu hu
  refine ⟨hs, fs₁ ++ fs₂, by rw [htx₂, htx₁, List.append_assoc], ?_⟩
  rw [hp] at hbytes₂
  rw [List.map_append, List.flatten_append, List.append_assoc, hbytes₂, ← List.append_assoc, hbytes₁,
    List.append_assoc]

theorem whileRunning_conserves {bs : List Byte} {f : State → State} {s : State} (hf : Conserves bs s (f s)) :
    Conserves bs s (whileRunning f s) := by
  by_cases hrun : s.bc.fault = .none
  · rwa [whileRunning_of_running hrun]
  · rw [whileRunning_of_faulted hrun]
    exact fun h => absurd h hrun

/-- A flush moves the first chunk of the queue into a frame. -/
theorem sendChunk_conserves (s : State) : Conserves [] s (sendChunk s) := by
  rw [sendChunk_eq]
  exact fun h => ⟨h, _, rfl, by simp [chunkOf]⟩

theorem flushIfDue_conserves (s : State) : Conserves [] s (flushIfDue s) := by
  rcases flushIfDue_cases s with ⟨-, -, e⟩ | ⟨-, e⟩
  · rw [e]; exact sendChunk_conserves s
  · rw [e]; exact .refl s

/-- A push that fits queues the burst behind what was queued. -/
theorem setRbQ_append_conserves (bs : List Byte) (s : State) : Conserves bs s (setRbQ (s.rbQ ++ bs) s) :=
  fun h => ⟨h, [], by simp, by simp⟩

/-- An overflow, which stores nothing, leaves BC faulted; else the burst is queued, and then at most a chunk sent. -/
theorem ingest_conserves (bs : List Byte) (s : State) : Conserves bs s (ingest bs s) := by
  rcases ingest_cases bs s with ⟨-, e⟩ | ⟨-, -, e⟩ | ⟨-, -, -, e⟩
  · rw [e]; nofun
  · rw [e]; exact setRbQ_append_conserves bs s
  · rw [e]
    have hsent : Conserves (bs ++ []) s (sendChunk (setRbQ (s.rbQ ++ bs) s)) :=
      (setRbQ_append_conserves bs s).trans (sendChunk_conserves _) rfl
    rwa [List.append_nil] at hsent

theorem BusBody.conserves {b : Byte} {f : State → State} (hf : BusBody b f) (s : State) : Conserves [] s (f s) := by
  cases hf with
  | grant =>
    have hready : Conserves [] s (setReady true s) := .of_unchanged rfl rfl rfl
    exact hready.trans (flushIfDue_conserves _) rfl
  | withdraw => exact .of_unchanged rfl rfl rfl
  | announce => exact .of_unchanged rfl rfl rfl
  | size =>
    unfold messageSize
    split <;> exact .of_unchanged rfl rfl rfl
  | data =>
    simp only [messageData]
    split <;> exact .of_unchanged rfl rfl rfl

theorem perform_ing_conserves {bs : List Byte} {s t : State} (h : perform (.ingress (.ing bs)) s = .next t) :
    Conserves bs s t := by
  have ht : (if bs.isEmpty then s else whileRunning (ingest bs) s) = t := Host.Outcome.next.inj h
  subst ht
  cases bs with
  | nil => exact .refl s
  | cons => exact whileRunning_conserves (ingest_conserves _ s)

theorem perform_drx_conserves {b : Byte} {s t : State} (h : perform (.device (.drx b)) s = .next t) :
    Conserves [] s t := by
  by_cases hrun : s.bc.fault = .none
  · rw [perform_drx b s hrun] at h
    rcases exec_selectDev_cases s.params s.bc.rxState b with hidle | ⟨f, hf, hexec⟩
    · rw [hidle] at h; cases h; exact .refl s
    · rw [hexec] at h; cases h; exact whileRunning_conserves (hf.conserves s)
  · rw [perform_drx_faulted b s hrun] at h
    cases h
    exact .refl s

/-! ### Conservation over a run -/

theorem ingressBytes_cons (ev : Event) (evs : List Event) :
    ingressBytes (ev :: evs) = ingressBytes [ev] ++ ingressBytes evs := by
  match ev with
  | .ingress (.spb _) => rfl
  | .ingress (.ing bs) => simp [ingressBytes]
  | .device _ => rfl
  | .host _ => rfl

theorem perform_conserves {ev : Event} {s t : State} (hreset : ev ≠ .host .reset) (h : perform ev s = .next t) :
    Conserves (ingressBytes [ev]) s t := by
  match ev with
  | .ingress (.spb _) => rw [perform_spb_writes h]; exact .of_unchanged rfl rfl rfl
  | .ingress (.ing bs) => simpa [ingressBytes] using perform_ing_conserves h
  | .device (.drx _) => exact perform_drx_conserves h
  | .device (.prx _) => rw [perform_prx_writes h]; exact .of_unchanged rfl rfl rfl
  | .host .reset => exact absurd rfl hreset
  | .host (.query _) => rw [perform_query_writes h]; exact .of_unchanged rfl rfl rfl

/-- By induction on the run. -/
theorem runEvents_conserves {evs : List Event} {s t : State} (hno : noReset evs = true)
    (h : runEvents evs s = .next t) : Conserves (ingressBytes evs) s t := by
  induction evs generalizing s with
  | nil => cases h; exact .refl _
  | cons ev evs ih =>
    obtain ⟨hreset, hno⟩ := (noReset_cons ev evs).mp hno
    obtain ⟨u, hu, hrun⟩ := runEvents_cons h
    rw [ingressBytes_cons]
    exact (perform_conserves hreset hu).trans (ih hno hrun) (perform_params hu)

/-- Settles O55: a run conserves the bytes because each of its events does. -/
theorem ingressBytesAreConserved : Obligations.IngressBytesAreConserved := by
  intro evs s t _ hno hrun hfault
  exact (runEvents_conserves hno hrun hfault).2

end Sys2Proof.Machine

/-! PROOFS. The steps of any environment are some total order of events (20_memory.md R72, R75). -/

namespace Sys2Proof.Machine

/-! ### No operation reads or writes what the agents have to deliver -/

/-- A function that neither reads nor writes the environment. -/
def EnvFree (f : State → State) : Prop := ∀ (e : Env) (s : State), f (setEnv e s) = setEnv e (f s)

theorem EnvFree.comp {f g : State → State} (hf : EnvFree f) (hg : EnvFree g) : EnvFree fun s => f (g s) :=
  fun e s => by simp only [hg e s, hf e (g s)]

theorem EnvFree.ite {c : State → Prop} [DecidablePred c] {f g : State → State}
    (hc : ∀ e s, c (setEnv e s) ↔ c s) (hf : EnvFree f) (hg : EnvFree g) :
    EnvFree fun s => if c s then f s else g s := by
  intro e s
  simp only [hc e s, hf e s, hg e s, apply_ite (setEnv e)]

theorem envFree_whileRunning {f : State → State} (hf : EnvFree f) : EnvFree (whileRunning f) :=
  .ite (fun _ _ => .rfl) hf fun _ _ => rfl

theorem envFree_spByte (b : Byte) : EnvFree (spByte b) := by
  intro e s
  obtain ⟨r, new, hbyte⟩ := spByte_eq_spOutcome b s.sp
  rw [hbyte s rfl, hbyte (setEnv e s) rfl]
  rfl

theorem envFree_sendChunk : EnvFree sendChunk := fun e s => by
  rw [sendChunk_eq, sendChunk_eq]
  rfl

theorem envFree_flushIfDue : EnvFree flushIfDue := .ite (fun _ _ => .rfl) envFree_sendChunk fun _ _ => rfl

/-- A burst as a choice between an overflow and a push followed by a flush. -/
theorem ingest_eq_ite (bs : List Byte) (s : State) :
    ingest bs s = if overflows s bs.length then raiseFault .overflow s else flushIfDue (setRbQ (s.rbQ ++ bs) s) := by
  unfold ingest rbPush
  split_ifs <;> rfl

theorem envFree_ingest (bs : List Byte) : EnvFree (ingest bs) := by
  have hpush : EnvFree fun s => setRbQ (s.rbQ ++ bs) s := fun _ _ => rfl
  rw [funext (ingest_eq_ite bs)]
  exact .ite (fun _ _ => .rfl) (fun _ _ => rfl) (envFree_flushIfDue.comp hpush)

theorem BusBody.envFree {b : Byte} {f : State → State} (hf : BusBody b f) : EnvFree f := by
  cases hf with
  | grant => exact envFree_flushIfDue.comp fun _ _ => rfl
  | withdraw => exact fun _ _ => rfl
  | announce => exact fun _ _ => rfl
  | size => exact .ite (fun _ _ => .rfl) (fun _ _ => rfl) fun _ _ => rfl
  | data => exact .ite (fun _ _ => .rfl) (fun _ _ => rfl) fun _ _ => rfl

/-- Each of the six operations of PP. -/
theorem exec_selectPp_envFree (st : PpState) (b : Byte) :
    ∃ f, EnvFree f ∧ ∀ s, exec (selectPp st b) s = .next (f s) := by
  cases st with
  | start => exact ⟨_, .ite (fun _ _ => .rfl) (fun _ _ => rfl) fun _ _ => rfl, fun _ => rfl⟩
  | leadIn => exact ⟨_, .ite (fun _ _ => .rfl) (fun _ _ => rfl) fun _ _ => rfl, fun _ => rfl⟩
  | address => exact ⟨_, fun _ _ => rfl, fun _ => rfl⟩
  | size => exact ⟨_, fun _ _ => rfl, fun _ => rfl⟩
  | data => exact ⟨_, fun _ _ => rfl, fun _ => rfl⟩
  | checksum => exact ⟨_, .ite (fun _ _ => .rfl) (fun _ _ => rfl) fun _ _ => rfl, fun _ => rfl⟩

/-- What an event does, it does whatever the agents have still to deliver. -/
theorem perform_setEnv {ev : Event} {s t : State} (h : perform ev s = .next t) (e : Env) :
    perform ev (setEnv e s) = .next (setEnv e t) := by
  match ev with
  | .ingress (.spb b) =>
    rw [perform_spb] at h ⊢
    cases h
    rw [envFree_spByte b]
  | .ingress (.ing bs) =>
    have hing : EnvFree fun s => if bs.isEmpty then s else whileRunning (ingest bs) s :=
      .ite (fun _ _ => .rfl) (fun _ _ => rfl) (envFree_whileRunning (envFree_ingest bs))
    cases h
    exact congrArg _ (hing e s)
  | .device (.drx b) =>
    by_cases hrun : s.bc.fault = .none
    · rw [perform_drx b s hrun] at h
      rw [perform_drx b (setEnv e s) hrun]
      rcases exec_selectDev_cases s.params s.bc.rxState b with hidle | ⟨f, hf, hexec⟩
      · rw [hidle] at h; cases h; exact hidle _
      · rw [hexec] at h; cases h; exact (hexec _).trans (congrArg _ (envFree_whileRunning hf.envFree e s))
    · rw [perform_drx_faulted b s hrun] at h
      cases h
      exact perform_drx_faulted b _ hrun
  | .device (.prx b) =>
    obtain ⟨f, hf, hexec⟩ := exec_selectPp_envFree s.pp.state b
    rw [perform_prx, hexec] at h
    cases h
    exact (hexec _).trans (congrArg _ (hf e s))
  | .host .reset => cases h; rfl
  | .host (.query q) => cases q <;> (cases h; rfl)

/-- An event is delivered from outside: performing it leaves what the agents have still to deliver. -/
theorem perform_env {ev : Event} {s t : State} (h : perform ev s = .next t) : t.env = s.env := by
  have hsame : t = setEnv s.env t := Host.Outcome.next.inj (h.symm.trans (perform_setEnv h s.env))
  rw [hsame, setEnv_env]

/-! ### Deliveries -/

/-- The agents have delivered a run of events, each its own in its order, and have `e'` of `e` still to deliver. -/
structure Delivers (evs : List Event) (e e' : Env) : Prop where
  ingress : e.ingress = ingressPart evs ++ e'.ingress
  device : e.device = devicePart evs ++ e'.device
  host : e.host = hostPart evs ++ e'.host

theorem delivers_cons (ev : Event) (e : Env) : Delivers [ev] (e.cons ev) e := by
  cases ev <;> exact ⟨rfl, rfl, rfl⟩

theorem Delivers.trans {evs fvs : List Event} {e e' e'' : Env} (h : Delivers evs e e') (h' : Delivers fvs e' e'') :
    Delivers (evs ++ fvs) e e'' where
  ingress := by rw [h.ingress, h'.ingress, ← List.append_assoc]; simp only [ingressPart, List.filterMap_append]
  device := by rw [h.device, h'.device, ← List.append_assoc]; simp only [devicePart, List.filterMap_append]
  host := by rw [h.host, h'.host, ← List.append_assoc]; simp only [hostPart, List.filterMap_append]

/-- A turn of an agent with nothing to deliver, or no turn at all, delivers nothing. -/
theorem takeEvent_none {e e' : Env} (h : takeEvent e = (none, e')) : Delivers [] e e' := by
  unfold takeEvent at h
  split at h
  case h_1 => cases h; exact ⟨rfl, rfl, rfl⟩
  all_goals
    split at h
    · cases h; exact ⟨rfl, rfl, rfl⟩
    · cases h

theorem runEvents_append {evs fvs : List Event} {s t : State} (h : runEvents evs s = .next t) :
    runEvents (evs ++ fvs) s = runEvents fvs t := by
  induction evs generalizing s with
  | nil => cases h; rfl
  | cons ev evs ih =>
    obtain ⟨u, hu, hrun⟩ := runEvents_cons h
    simp only [List.cons_append, runEvents, hu, ih hrun]

/-! ### Steps as runs -/

/-- From `s` to `t` the agents deliver `evs`, and the run of these events makes the same change, in any environment. -/
structure Serialises (evs : List Event) (s t : State) : Prop where
  params : t.params = s.params
  delivers : Delivers evs s.env t.env
  run : ∀ e : Env, runEvents evs (setEnv e s) = .next (setEnv e t)

theorem Serialises.refl (s : State) : Serialises [] s s := ⟨rfl, ⟨rfl, rfl, rfl⟩, fun _ => rfl⟩

theorem Serialises.trans {evs fvs : List Event} {s u t : State} (h : Serialises evs s u) (h' : Serialises fvs u t) :
    Serialises (evs ++ fvs) s t where
  params := h'.params.trans h.params
  delivers := h.delivers.trans h'.delivers
  run e := (runEvents_append (h.run e)).trans (h'.run e)

theorem perform_serialises {ev : Event} {e : Env} {s t : State} (henv : s.env = e.cons ev)
    (h : perform ev (setEnv e s) = .next t) : Serialises [ev] s t where
  params := (perform_params h).trans (setEnv_params s e)
  delivers := by rw [henv, perform_env h]; exact delivers_cons ev e
  run e' := by
    have hev : perform ev (setEnv e' s) = .next (setEnv e' t) := perform_setEnv h e'
    simp only [runEvents, hev]

/-- A step is a run of the one event whose turn it is, or of none. -/
theorem step_serialises {s : State} (hwf : s.params.wf = true) :
    ∃ evs t, evs.length ≤ 1 ∧ step s = .next t ∧ Serialises evs s t := by
  unfold step
  rw [if_pos hwf]
  rcases htake : takeEvent s.env with ⟨_ | ev, e⟩
  · exact ⟨[], setEnv e s, Nat.zero_le 1, rfl, rfl, takeEvent_none htake, fun _ => rfl⟩
  · obtain ⟨t, ht⟩ := perform_next ev (setEnv e s)
    exact ⟨[ev], t, Nat.le_refl 1, ht, perform_serialises (takeEvent_some htake) ht⟩

theorem core_run_succ {M : Host.Core} {s u : M.State} (h : M.step s = .next u) (n : Nat) :
    M.run (n + 1) s = M.run n u := by
  rw [Host.Core.run, h]

/-- By induction on the number of steps. -/
theorem run_serialises (n : Nat) {s : State} (hwf : s.params.wf = true) :
    ∃ evs t, evs.length ≤ n ∧ Host.Core.run core n s = .next t ∧ Serialises evs s t := by
  induction n generalizing s with
  | zero => exact ⟨[], s, Nat.le_refl 0, rfl, .refl s⟩
  | succ n ih =>
    obtain ⟨evs, u, hone, hstep, hfirst⟩ := step_serialises hwf
    obtain ⟨fvs, t, hlen, hrun, hrest⟩ := ih (hfirst.params ▸ hwf)
    refine ⟨evs ++ fvs, t, ?_, ?_, hfirst.trans hrest⟩
    · rw [List.length_append]; omega
    · exact (core_run_succ (M := core) hstep n).trans hrun

/-- Settles O41: the run of the events delivered, in the environment that the steps end in. -/
theorem agentsAreSerialised : Obligations.AgentsAreSerialised := by
  intro n s hwf
  obtain ⟨evs, t, hlen, hrun, hser⟩ := run_serialises n hwf
  obtain ⟨hingress, hdevice, hhost⟩ := hser.delivers
  exact ⟨evs, t, hlen, hrun, hser.run t.env, hingress, hdevice, hhost⟩

end Sys2Proof.Machine

/-! PROOFS. Decoder and encoder are inverse (30_encoding.md R106 to R110), and the text lines expand (R113, R114). -/

namespace Sys2Proof

theorem Params.wf_iff (p : Params) : p.wf = true ↔
    1 ≤ p.capacity ∧ 1 ≤ p.maxPayload ∧ p.maxPayload ≤ 255 ∧ p.cmdHeader ≠ [] ∧ p.statusCodes.Nodup ∧
      p.ppMaxSize ≤ 255 := by
  simp [Params.wf, and_assoc]

/-- Legal status codes are told apart (00_scope.md R6). -/
theorem Params.statusCodes_nodup {p : Params} (h : p.wf = true) : p.statusCodes.Nodup := by
  obtain ⟨-, -, -, -, hnodup, -⟩ := p.wf_iff.mp h
  exact hnodup

/-! ### The state an encoding asks for -/

section Admits

variable {sel : Selector}

theorem Selector.admits_sp {st : SpState} : sel.admits (.sp st) = true ↔ sel.spState = st := by simp [admits]

theorem Selector.admits_rx {st : BcRxState} :
    sel.admits (.rx st) = true ↔ sel.halted = false ∧ sel.rxState = st := by simp [admits]

theorem Selector.admits_pp {st : PpState} : sel.admits (.pp st) = true ↔ sel.ppState = st := by simp [admits]

theorem decode_spb_of_admits {st : SpState} (h : sel.admits (.sp st) = true) (b : Byte) :
    decode (.ingress (.spb b)) sel = .op (selectSp st b) := by
  rw [← Selector.admits_sp.mp h]; rfl

theorem decode_drx_of_admits {st : BcRxState} (h : sel.admits (.rx st) = true) (b : Byte) :
    decode (.device (.drx b)) sel = .op (selectDev sel.params st b) := by
  obtain ⟨hrun, rfl⟩ := Selector.admits_rx.mp h
  simp [decode, hrun]

theorem decode_prx_of_admits {st : PpState} (h : sel.admits (.pp st) = true) (b : Byte) :
    decode (.device (.prx b)) sel = .op (selectPp st b) := by
  rw [← Selector.admits_pp.mp h]; rfl

end Admits

/-! ### Selection by a status byte -/

section Status

variable {p : Params}

theorem selectStatus_stReady : selectStatus p p.stReady = .bcRdy := if_pos rfl

/-- The other codes reach their row because no earlier row of R100 holds the same code. -/
theorem selectStatus_of_nodup (h : p.statusCodes.Nodup) :
    selectStatus p p.stFull = .bcFull ∧ selectStatus p p.stDataReceived = .bcDrcv ∧
      selectStatus p p.stError = .bcErr ∧ selectStatus p p.stMessage = .bcMsg := by
  simp only [Params.statusCodes, List.nodup_cons, List.mem_cons, List.not_mem_nil, or_false, not_or] at h
  obtain ⟨⟨hFR, hDR, hER, hMR⟩, ⟨hDF, hEF, hMF⟩, ⟨hED, hMD⟩, hME, -⟩ := h
  simp [selectStatus, Ne.symm hFR, Ne.symm hDR, Ne.symm hER, Ne.symm hMR, Ne.symm hDF, Ne.symm hEF, Ne.symm hMF,
    Ne.symm hED, Ne.symm hMD, Ne.symm hME]

theorem selectStatus_of_not_mem {b : Byte} (h : b ∉ p.statusCodes) : selectStatus p b = .bcUnk b := by
  simp only [Params.statusCodes, List.mem_cons, List.not_mem_nil, or_false, not_or] at h
  simp [selectStatus, h]

/-- A status byte selects a row of R100 whose code it is, or `BC.UNK`, whose operand it is. -/
theorem encode_selectStatus (p : Params) (b : Byte) :
    encode p (selectStatus p b) = some ⟨.device (.drx b), .rx .awaitingNotification⟩ := by
  unfold selectStatus
  split_ifs <;> simp [encode, *]

theorem selectStatus_wf (p : Params) (b : Byte) : (selectStatus p b).wf p = true := by
  unfold selectStatus
  split_ifs <;> simp [Instr.wf, Params.statusCodes, *]

end Status

/-- Settles O43, operation by operation: an operation of SP, of PP or of a message is selected by the state its encoding
asks for, and a status operation by its code, which no other row has. -/
theorem decodeOfEncode : Obligations.DecodeOfEncode := by
  intro i e sel hp hi he hadm
  obtain ⟨hFull, hDrcv, hErr, hMsg⟩ := selectStatus_of_nodup (Params.statusCodes_nodup hp)
  cases i with
  | spWfs | spAddrl | spAddrh | spCntl | spCnth | spDatl | spDath => cases he; exact decode_spb_of_admits hadm _
  | rbSize | rbCap | rbEmpty | bcIng | reset => cases he; rfl
  | bcRdy => cases he; exact (decode_drx_of_admits hadm _).trans (congrArg _ selectStatus_stReady)
  | bcFull => cases he; exact (decode_drx_of_admits hadm _).trans (congrArg _ hFull)
  | bcDrcv => cases he; exact (decode_drx_of_admits hadm _).trans (congrArg _ hDrcv)
  | bcErr => cases he; exact (decode_drx_of_admits hadm _).trans (congrArg _ hErr)
  | bcMsg => cases he; exact (decode_drx_of_admits hadm _).trans (congrArg _ hMsg)
  | bcUnk b =>
    cases he
    have hb : b ∉ sel.params.statusCodes := of_decide_eq_true hi
    exact (decode_drx_of_admits hadm _).trans (congrArg _ (selectStatus_of_not_mem hb))
  | bcMsize | bcMdata => cases he; exact decode_drx_of_admits hadm _
  | ppStart | ppLeadin | ppAddr | ppSize | ppData | ppCksum => cases he; exact decode_prx_of_admits hadm _
  | spResync | spBuf | rbPush | rbPushn | rbPop | bcFlush => cases he

/-! ### Encoding what an event selects -/

theorem encode_selectSp (p : Params) (st : SpState) (b : Byte) :
    encode p (selectSp st b) = some ⟨.ingress (.spb b), .sp st⟩ := by cases st <;> rfl

theorem encode_selectDev (p : Params) (st : BcRxState) (b : Byte) :
    encode p (selectDev p st b) = some ⟨.device (.drx b), .rx st⟩ := by
  cases st with
  | awaitingNotification => exact encode_selectStatus p b
  | messageSizeExpected => rfl
  | messageDataExpected => rfl

theorem encode_selectPp (p : Params) (st : PpState) (b : Byte) :
    encode p (selectPp st b) = some ⟨.device (.prx b), .pp st⟩ := by cases st <;> rfl

theorem encode_selectQuery (p : Params) (q : RbQuery) :
    encode p (selectQuery q) = some ⟨.host (.query q), .any⟩ := by cases q <;> rfl

theorem selectSp_wf (p : Params) (st : SpState) (b : Byte) : (selectSp st b).wf p = true := by cases st <;> rfl

theorem selectDev_wf (p : Params) (st : BcRxState) (b : Byte) : (selectDev p st b).wf p = true := by
  cases st with
  | awaitingNotification => exact selectStatus_wf p b
  | messageSizeExpected => rfl
  | messageDataExpected => rfl

theorem selectPp_wf (p : Params) (st : PpState) (b : Byte) : (selectPp st b).wf p = true := by cases st <;> rfl

theorem selectQuery_wf (p : Params) (q : RbQuery) : (selectQuery q).wf p = true := by cases q <;> rfl

/-- Only a byte on `dev_rx` depends on whether BC is faulted (30_encoding.md R108). -/
theorem decode_drx_eq_op_iff {b : Byte} {sel : Selector} {i : Instr} :
    decode (.device (.drx b)) sel = .op i ↔ sel.halted = false ∧ selectDev sel.params sel.rxState b = i := by
  cases h : sel.halted <;> simp [decode, h]

/-- Settles O44, port by port. -/
theorem encodeOfDecode : Obligations.EncodeOfDecode := by
  intro ev sel i h
  match ev with
  | .ingress (.spb b) =>
    cases h
    exact ⟨⟨_, encode_selectSp _ _ b, Selector.admits_sp.mpr rfl⟩, fun _ => selectSp_wf _ _ b⟩
  | .ingress (.ing bs) =>
    cases h
    refine ⟨⟨.any, rfl, rfl⟩, fun hne => ?_⟩
    cases bs with
    | nil => exact absurd rfl hne
    | cons => rfl
  | .device (.drx b) =>
    obtain ⟨hrun, rfl⟩ := decode_drx_eq_op_iff.mp h
    exact ⟨⟨_, encode_selectDev _ _ b, Selector.admits_rx.mpr ⟨hrun, rfl⟩⟩, fun _ => selectDev_wf _ _ b⟩
  | .device (.prx b) =>
    cases h
    exact ⟨⟨_, encode_selectPp _ _ b, Selector.admits_pp.mpr rfl⟩, fun _ => selectPp_wf _ _ b⟩
  | .host .reset => cases h; exact ⟨⟨.any, rfl, rfl⟩, fun _ => rfl⟩
  | .host (.query q) => cases h; exact ⟨⟨.any, encode_selectQuery _ q, rfl⟩, fun _ => selectQuery_wf _ q⟩

/-! ### What nothing selects, and what selects nothing -/

/-- Whether an operation has an encoding is a matter of its row, not of the parameters. -/
theorem encode_eq_none_iff (p : Params) (i : Instr) : encode p i = none ↔
    ((∃ b, i = .spResync b) ∨ (∃ bs, i = .spBuf bs) ∨ (∃ b, i = .rbPush b) ∨ (∃ bs, i = .rbPushn bs) ∨
      i = .rbPop ∨ i = .bcFlush) := by
  cases i <;> simp [encode]

theorem decode_eq_dropped_iff (ev : Event) (sel : Selector) : (∃ why, decode ev sel = .dropped why) ↔
    (sel.halted = true ∧ ∃ b, ev = .device (.drx b)) := by
  match ev with
  | .device (.drx b) =>
    cases h : sel.halted with
    | false => simp [decode, h]
    | true => exact ⟨fun _ => ⟨rfl, b, rfl⟩, fun _ => ⟨.busControllerHalted, if_pos h⟩⟩
  | .ingress (.spb _) | .ingress (.ing _) | .device (.prx _) | .host .reset | .host (.query _) => simp [decode]

/-- Settles O45: a selected operation has an encoding under the selector's parameters (O44), so under any. -/
theorem internalOperationsAreNotSelected : Obligations.InternalOperationsAreNotSelected := by
  refine ⟨encode_eq_none_iff, fun ev sel p i hdecode hnone => ?_, decode_eq_dropped_iff⟩
  obtain ⟨⟨h, henc, -⟩, -⟩ := encodeOfDecode ev sel i hdecode
  have hnone' : encode sel.params i = none := (encode_eq_none_iff _ i).mpr ((encode_eq_none_iff p i).mp hnone)
  simp [henc] at hnone'

/-- Settles O46: each line is the definition's row for it, and a buffer's line recurses on its bytes. -/
theorem textLinesExpand : Obligations.TextLinesExpand := fun _ _ _ =>
  ⟨rfl, rfl, rfl, rfl, rfl, rfl, rfl, rfl, rfl, rfl, rfl, rfl, rfl, rfl, rfl⟩

end Sys2Proof

/-! PROOFS. Every event completes (30_encoding.md R111), and what one event adds to `dev_tx` (R98, R99). -/

namespace Sys2Proof.Machine

/-- Settles O39. -/
theorem everyEventCompletes : Obligations.EveryEventCompletes := by
  intro ev s
  obtain ⟨t, ht⟩ := perform_next ev s
  exact ⟨t, ht, perform_params ht, perform_env ht⟩

/-- From `s` to `t`, `dev_tx` gains nothing, or one frame of the layout of 30_encoding.md R98. -/
def SendsAtMostOneFrame (s t : State) : Prop :=
  t.out.devTx = s.out.devTx ∨ ∃ f, IsOutboundFrame s.params f ∧ t.out.devTx = s.out.devTx ++ [f]

theorem SendsAtMostOneFrame.refl (s : State) : SendsAtMostOneFrame s s := .inl rfl

theorem whileRunning_sends {f : State → State} {s : State} (hf : SendsAtMostOneFrame s (f s)) :
    SendsAtMostOneFrame s (whileRunning f s) := by
  rcases whileRunning_eq_or f s with e | e
  · rwa [e]
  · rw [e]; exact .refl s

/-- The first chunk of a queue that holds a byte has between 1 and `MAX_PAYLOAD` bytes. -/
theorem isOutboundFrame_chunkOf {p : Params} {q : List Byte} (hp : 1 ≤ p.maxPayload) (hq : q ≠ []) :
    IsOutboundFrame p (outboundFrame p (chunkOf p q)) := by
  have hpos : 0 < q.length := List.length_pos_iff.mpr hq
  have hlen : (chunkOf p q).length = min q.length p.maxPayload := by simp [chunkOf]
  exact ⟨chunkOf p q, by omega, by omega, rfl⟩

section Frames

variable {s : State} (hp : 1 ≤ s.params.maxPayload)
include hp

theorem sendChunk_sends (hq : s.rbQ ≠ []) : SendsAtMostOneFrame s (sendChunk s) := by
  rw [sendChunk_eq]
  exact .inr ⟨_, isOutboundFrame_chunkOf hp hq, rfl⟩

theorem flushIfDue_sends : SendsAtMostOneFrame s (flushIfDue s) := by
  rcases flushIfDue_cases s with ⟨-, hq, e⟩ | ⟨-, e⟩
  · rw [e]; exact sendChunk_sends hp hq
  · rw [e]; exact .refl s

/-- Neither an overflow nor a push emits; the flush after a push may. -/
theorem ingest_sends (bs : List Byte) : SendsAtMostOneFrame s (ingest bs s) := by
  rcases ingest_cases bs s with ⟨-, e⟩ | ⟨-, -, e⟩ | ⟨-, -, hq, e⟩
  · rw [e]; exact .inl rfl
  · rw [e]; exact .inl rfl
  · rw [e]; exact sendChunk_sends (s := setRbQ (s.rbQ ++ bs) s) hp hq

theorem BusBody.sends {b : Byte} {f : State → State} (hf : BusBody b f) : SendsAtMostOneFrame s (f s) := by
  cases hf with
  | grant => exact flushIfDue_sends (s := setReady true s) hp
  | withdraw => exact .inl rfl
  | announce => exact .inl rfl
  | size =>
    unfold messageSize
    split <;> exact .inl rfl
  | data =>
    simp only [messageData]
    split <;> exact .inl rfl

theorem perform_ing_sends {bs : List Byte} {t : State} (h : perform (.ingress (.ing bs)) s = .next t) :
    SendsAtMostOneFrame s t := by
  have ht : (if bs.isEmpty then s else whileRunning (ingest bs) s) = t := Host.Outcome.next.inj h
  subst ht
  split
  · exact .refl s
  · exact whileRunning_sends (ingest_sends hp bs)

theorem perform_drx_sends {b : Byte} {t : State} (h : perform (.device (.drx b)) s = .next t) :
    SendsAtMostOneFrame s t := by
  by_cases hrun : s.bc.fault = .none
  · rw [perform_drx b s hrun] at h
    rcases exec_selectDev_cases s.params s.bc.rxState b with hidle | ⟨f, hf, hexec⟩
    · rw [hidle] at h; cases h; exact .refl s
    · rw [hexec] at h; cases h; exact whileRunning_sends (hf.sends hp)
  · rw [perform_drx_faulted b s hrun] at h
    cases h
    exact .refl s

end Frames

/-- Settles O18, port by port: only `ing` and `dev_rx` reach `dev_tx`. -/
theorem framesAreWellFormed : Obligations.FramesAreWellFormed := by
  intro ev s t hwf h
  obtain ⟨-, hp, -⟩ := s.params.wf_iff.mp hwf
  match ev with
  | .ingress (.spb _) => rw [perform_spb_writes h]; exact .inl rfl
  | .ingress (.ing _) => exact perform_ing_sends hp h
  | .device (.drx _) => exact perform_drx_sends hp h
  | .device (.prx _) => rw [perform_prx_writes h]; exact .inl rfl
  | .host .reset => cases h; exact .inl rfl
  | .host (.query _) => rw [perform_query_writes h]; exact .inl rfl

end Sys2Proof.Machine

/-! PROOFS. What a whole message (30_encoding.md R101, R102) and a whole packet (R103 to R105) do. -/

namespace Sys2Proof.Machine

/-- A run's first event, where its outcome is known. -/
theorem runEvents_cons_of_perform {ev : Event} {s t : State} (h : perform ev s = .next t) (evs : List Event) :
    runEvents (ev :: evs) s = runEvents evs t := by
  rw [runEvents, h]

/-! ### A byte that counts down -/

theorem ofNat_succ_sub_one (n : Nat) : BitVec.ofNat 8 (n + 1) - 1 = BitVec.ofNat 8 n := by
  rw [BitVec.ofNat_add]
  exact BitVec.add_sub_cancel _ _

theorem ofNat_succ_ne_zero {n : Nat} (h : n + 1 ≤ 255) : BitVec.ofNat 8 (n + 1) ≠ 0 := by
  intro hzero
  have hnat : (n + 1) % 256 = 0 := congrArg BitVec.toNat hzero
  omega

/-! ### A message on `dev_rx` -/

section Message

variable {s : State}

/-- BC with the start of a message received. -/
def awaitingSize (s : State) : State := setBc { s.bc with rxState := .messageSizeExpected } s

/-- BC with the bytes `buf` of a message received, and `n` still to come. -/
def collecting (n : Nat) (buf : List Byte) (s : State) : State :=
  setBc { s.bc with rxState := .messageDataExpected, msgRemaining := BitVec.ofNat 8 n, msgBuf := buf } s

/-- BC with the message `d` handed over. -/
def messageDone (d : List Byte) (s : State) : State :=
  setBc { s.bc with rxState := .awaitingNotification, msgRemaining := 0, msgBuf := [] } (emitCommand d s)

/-- BC between messages is again between messages. -/
theorem messageDone_eq (d : List Byte) (hst : s.bc.rxState = .awaitingNotification) (hleft : s.bc.msgRemaining = 0)
    (hbuf : s.bc.msgBuf = []) :
    messageDone d s = { s with out := { s.out with cmdOut := s.out.cmdOut ++ [⟨d⟩] } } := by
  rw [messageDone, ← hst, ← hleft, ← hbuf]
  rfl

theorem messageSize_zero (hleft : s.bc.msgRemaining = 0) (hbuf : s.bc.msgBuf = []) :
    messageSize 0 (awaitingSize s) = messageDone [] s := by
  rw [messageSize, if_pos rfl, messageDone, ← hleft, ← hbuf]
  rfl

theorem messageSize_succ {n : Nat} (hn : n + 1 ≤ 255) :
    messageSize (BitVec.ofNat 8 (n + 1)) (awaitingSize s) = collecting (n + 1) [] s := by
  rw [messageSize, if_neg (ofNat_succ_ne_zero hn)]
  rfl

theorem messageData_last (b : Byte) (buf : List Byte) :
    messageData b (collecting 1 buf s) = messageDone (buf ++ [b]) s := by
  have hdec : (collecting 1 buf s).bc.msgRemaining - 1 = 0 := ofNat_succ_sub_one 0
  simp only [messageData, hdec, if_true]
  rfl

theorem messageData_more (b : Byte) {n : Nat} (hn : n + 1 ≤ 255) (buf : List Byte) :
    messageData b (collecting (n + 2) buf s) = collecting (n + 1) (buf ++ [b]) s := by
  have hdec : (collecting (n + 2) buf s).bc.msgRemaining - 1 = BitVec.ofNat 8 (n + 1) := ofNat_succ_sub_one (n + 1)
  simp only [messageData, hdec, if_neg (ofNat_succ_ne_zero hn)]
  rfl

theorem onDevRx_cons (b : Byte) (bs : List Byte) : onDevRx (b :: bs) = .device (.drx b) :: onDevRx bs := rfl

variable (hrun : s.bc.fault = .none)
include hrun

theorem perform_stMessage (hwf : s.params.wf = true) (hst : s.bc.rxState = .awaitingNotification) :
    perform (.device (.drx s.params.stMessage)) s = .next (awaitingSize s) := by
  obtain ⟨-, -, -, hmsg⟩ := selectStatus_of_nodup (Params.statusCodes_nodup hwf)
  rw [perform_drx _ s hrun, hst, selectDev, hmsg]
  exact congrArg _ (whileRunning_of_running hrun)

theorem perform_drx_awaitingSize (b : Byte) :
    perform (.device (.drx b)) (awaitingSize s) = .next (messageSize b (awaitingSize s)) := by
  rw [perform_drx b (awaitingSize s) hrun]
  exact congrArg _ (whileRunning_of_running (f := messageSize b) (s := awaitingSize s) hrun)

theorem perform_drx_collecting (b : Byte) (n : Nat) (buf : List Byte) :
    perform (.device (.drx b)) (collecting n buf s) = .next (messageData b (collecting n buf s)) := by
  rw [perform_drx b (collecting n buf s) hrun]
  exact congrArg _ (whileRunning_of_running (f := messageData b) (s := collecting n buf s) hrun)

/-- The data bytes of a message, by induction on them: while bytes remain each is appended, and the last hands over. -/
theorem runEvents_messageData (b : Byte) (d buf : List Byte) (hlen : d.length + 1 ≤ 255) :
    runEvents (onDevRx (b :: d)) (collecting (d.length + 1) buf s) = .next (messageDone (buf ++ b :: d) s) := by
  induction d generalizing b buf with
  | nil =>
    rw [onDevRx_cons, runEvents_cons_of_perform (perform_drx_collecting hrun b _ buf)]
    exact congrArg _ (messageData_last b buf)
  | cons c d ih =>
    have hrest : d.length + 1 ≤ 255 := Nat.le_of_succ_le hlen
    rw [onDevRx_cons, runEvents_cons_of_perform (perform_drx_collecting hrun b _ buf), List.length_cons,
      messageData_more b hrest, ih c (buf ++ [b]) hrest, List.append_assoc, List.singleton_append]

end Message

/-- Settles O25: start, size, then the data bytes; a message of size 0 is complete with its size byte. -/
theorem messageBecomesACommand : Obligations.MessageBecomesACommand := by
  intro d s hwf hrun hst hleft hbuf hlen
  rw [List.cons_append, List.cons_append, List.nil_append, onDevRx_cons, onDevRx_cons,
    runEvents_cons_of_perform (perform_stMessage hrun hwf hst),
    runEvents_cons_of_perform (perform_drx_awaitingSize hrun _), ← messageDone_eq d hst hleft hbuf]
  cases d with
  | nil => exact congrArg _ (messageSize_zero hleft hbuf)
  | cons b d =>
    rw [List.length_cons, messageSize_succ hlen]
    exact runEvents_messageData hrun b d [] hlen

/-! ### A packet on `pkt_rx` -/

theorem onPktRx_cons (b : Byte) (bs : List Byte) : onPktRx (b :: bs) = .device (.prx b) :: onPktRx bs := rfl

theorem onPktRx_append (bs cs : List Byte) : onPktRx (bs ++ cs) = onPktRx bs ++ onPktRx cs := List.map_append

section Packet

variable {s : State} {r : PpRegs}

theorem perform_ppStart (hst : r.state = .start) :
    perform (.device (.prx s.params.ppStart)) (setPp r s) = .next (setPp { r with state := .leadIn } s) := by
  rw [perform_prx, setPp_pp, hst]
  exact congrArg _ (if_pos rfl)

theorem perform_ppLeadin (hst : r.state = .leadIn) :
    perform (.device (.prx s.params.ppLeadin)) (setPp r s) = .next (setPp { r with state := .address } s) := by
  rw [perform_prx, setPp_pp, hst]
  exact congrArg _ (if_pos rfl)

theorem perform_ppAddr (ta : Byte) (hst : r.state = .address) :
    perform (.device (.prx ta)) (setPp r s) = .next (setPp { r with
      type := packetType ta, address := packetAddress ta, sum := ta, buf := [], state := .size } s) := by
  rw [perform_prx, setPp_pp, hst]
  rfl

theorem perform_ppSize {n : Nat} (hst : r.state = .size) (hn : n ≤ s.params.ppMaxSize) :
    perform (.device (.prx (BitVec.ofNat 8 n))) (setPp r s) =
      .next (setPp (acceptSize (BitVec.ofNat 8 n) r) s) := by
  have hfits : ¬oversize s.params (BitVec.ofNat 8 n) = true := by
    simp only [oversize, BitVec.toNat_ofNat, decide_eq_true_eq]
    omega
  rw [perform_prx, setPp_pp, hst]
  exact congrArg (fun r' => Host.Outcome.next (setPp r' s)) (if_neg hfits)

theorem perform_ppData (b : Byte) (hst : r.state = .data) :
    perform (.device (.prx b)) (setPp r s) = .next (setPp (payloadByte b r) s) := by
  rw [perform_prx, setPp_pp, hst]
  rfl

/-- The byte that equals the sum emits the packet. -/
theorem perform_ppCksum (hst : r.state = .checksum) :
    perform (.device (.prx r.sum)) (setPp r s) =
      .next (setPp (ppClear r) (emitPacket ⟨r.type, r.address, r.buf⟩ s)) := by
  rw [perform_prx, setPp_pp, hst]
  exact congrArg _ (if_pos rfl)

/-- PP with a whole payload received. -/
def payloadDone (d : List Byte) (r : PpRegs) : PpRegs :=
  { r with
    buf := r.buf ++ d, sum := r.sum + BitVec.ofNat 8 (byteSum d), remaining := 0, state := .checksum }

theorem payloadByte_last (b : Byte) (hleft : r.remaining = 1) : payloadByte b r = payloadDone [b] r := by
  simp [payloadByte, hleft, payloadDone, addToSum, byteSum]

theorem payloadByte_more (b : Byte) {n : Nat} (hn : n + 1 ≤ 255) (hleft : r.remaining = BitVec.ofNat 8 (n + 2)) :
    payloadByte b r = { r with buf := r.buf ++ [b], sum := r.sum + b, remaining := BitVec.ofNat 8 (n + 1) } := by
  have hdec : r.remaining - 1 = BitVec.ofNat 8 (n + 1) := by rw [hleft, ofNat_succ_sub_one]
  simp only [payloadByte, hdec, if_neg (ofNat_succ_ne_zero hn), addToSum]

/-- The payload of a packet, by induction on it. -/
theorem runEvents_payload (b : Byte) (d : List Byte) (hst : r.state = .data) (hlen : d.length + 1 ≤ 255)
    (hleft : r.remaining = BitVec.ofNat 8 (d.length + 1)) :
    runEvents (onPktRx (b :: d)) (setPp r s) = .next (setPp (payloadDone (b :: d) r) s) := by
  induction d generalizing b r with
  | nil =>
    rw [onPktRx_cons, runEvents_cons_of_perform (perform_ppData b hst), payloadByte_last b hleft]
    rfl
  | cons c d ih =>
    have hrest : d.length + 1 ≤ 255 := Nat.le_of_succ_le hlen
    rw [onPktRx_cons, runEvents_cons_of_perform (perform_ppData b hst), payloadByte_more b hrest hleft]
    refine (ih c ?_ hrest rfl).trans ?_
    · exact hst
    · simp [payloadDone, byteSum, BitVec.ofNat_add, BitVec.add_assoc]

/-- The bytes of a packet before its checksum byte. -/
def packetBody (p : Params) (ta : Byte) (d : List Byte) : List Byte :=
  [p.ppStart, p.ppLeadin, ta, BitVec.ofNat 8 d.length] ++ d

theorem packetBytes_eq (p : Params) (ta : Byte) (d : List Byte) (cks : Byte) :
    packetBytes p ta d cks = packetBody p ta d ++ [cks] := rfl

/-- The checksum as PP accumulates it. -/
theorem packetChecksum_eq (ta : Byte) (d : List Byte) :
    packetChecksum ta d = ta + BitVec.ofNat 8 d.length + BitVec.ofNat 8 (byteSum d) := by
  simp [packetChecksum, BitVec.ofNat_add]

/-- PP with a packet received but for its checksum byte: the sum is the packet's checksum (30_encoding.md R105). -/
def awaitingChecksum (ta : Byte) (d : List Byte) (left : Byte) (discards : Nat) : PpRegs :=
  ⟨.checksum, packetType ta, packetAddress ta, BitVec.ofNat 8 d.length, left, packetChecksum ta d, d, discards⟩

/-- `pp_remaining` is 0 after a payload, and as it was without one. -/
theorem runEvents_packetBody (ta : Byte) (d : List Byte) (hst : r.state = .start)
    (hlen : d.length ≤ s.params.ppMaxSize) (hmax : s.params.ppMaxSize ≤ 255) :
    ∃ left, runEvents (onPktRx (packetBody s.params ta d)) (setPp r s) =
      .next (setPp (awaitingChecksum ta d left r.discards) s) := by
  simp only [packetBody, List.cons_append, List.nil_append, onPktRx_cons]
  rw [runEvents_cons_of_perform (perform_ppStart hst), runEvents_cons_of_perform (perform_ppLeadin rfl),
    runEvents_cons_of_perform (perform_ppAddr ta rfl), runEvents_cons_of_perform (perform_ppSize rfl hlen)]
  simp only [awaitingChecksum, packetChecksum_eq]
  cases d with
  | nil => exact ⟨r.remaining, by simp [acceptSize, addToSum, byteSum, onPktRx, runEvents]⟩
  | cons b d =>
    have hd : d.length + 1 ≤ 255 := hlen.trans hmax
    refine ⟨0, ?_⟩
    rw [List.length_cons, acceptSize, if_neg (ofNat_succ_ne_zero hd)]
    exact runEvents_payload b d rfl hd rfl

end Packet

/-- Settles O31: the checksum byte equals the sum that the bytes before it left. -/
theorem goodPacketIsEmitted : Obligations.GoodPacketIsEmitted := by
  intro ta d s hst hlen hmax
  refine ⟨packetType ta, packetAddress ta, packetType_toNat ta, packetAddress_toNat ta, ?_⟩
  obtain ⟨left, hbody⟩ := runEvents_packetBody (r := s.pp) ta d hst hlen hmax
  have hcks := perform_ppCksum (s := s) (r := awaitingChecksum ta d left s.pp.discards) rfl
  rw [packetBytes_eq, onPktRx_append]
  exact (runEvents_append hbody).trans (runEvents_cons_of_perform hcks [])

end Sys2Proof.Machine

/-! PROOFS. SP (40_stream_parser.md): what each operation writes, the resynchronisation step, and runs of `0x55`. -/

namespace Sys2Proof.Machine

/-! ### The operations as the rules write them -/

theorem decode_spb {s : State} {st : SpState} (h : s.sp.state = st) (b : Byte) :
    decode (.ingress (.spb b)) s.selector = .op (selectSp st b) := by
  rw [← h]
  rfl

/-- The operation that `sp_state` selects says what a byte on `sp_in` does (40_stream_parser.md R130). -/
theorem spByte_eq {b : Byte} {s t : State} {st : SpState} (hst : s.sp.state = st)
    (hexec : exec (selectSp st b) s = .next t) : spByte b s = t := by
  rw [← hst, exec_selectSp] at hexec
  exact Host.Outcome.next.inj hexec

theorem lowByte_eq_ofNat (b : Byte) : lowByte b = BitVec.ofNat 16 b.toNat :=
  BitVec.eq_of_toNat_eq (by rw [lowByte_toNat, BitVec.toNat_ofNat]; omega)

/-- The count goes down modulo 65536 (40_stream_parser.md R136). -/
theorem half_sub_one_toNat (c : Half) : (c - 1).toNat = (c.toNat + 65535) % 65536 := by
  rw [BitVec.toNat_sub, Nat.add_comm]
  rfl

/-- Settles O3. -/
theorem spWfsIgnoresTheByte : Obligations.SpWfsIgnoresTheByte := fun b _ => ⟨fun h => decode_spb h b, rfl⟩

/-- Settles O4: the test of the sum for `0x5555` is a test of its number. -/
theorem spAddressIsAssembled : Obligations.SpAddressIsAssembled := by
  intro b s
  have htest : addHighByte s.sp.address b = 0x5555 ↔ (addHighByte s.sp.address b).toNat = 0x5555 :=
    BitVec.toNat_inj.symm
  refine ⟨fun h => decode_spb h b, fun h => decode_spb h b, ?_, _, addHighByte_toNat s.sp.address b, ?_⟩
  · rw [← lowByte_eq_ofNat]
    rfl
  · simp only [← htest]
    rfl

/-- Settles O5. -/
theorem spCountIsAssembled : Obligations.SpCountIsAssembled := by
  intro b s
  rw [← lowByte_eq_ofNat]
  exact ⟨fun h => decode_spb h b, fun h => decode_spb h b, rfl, _, addHighByte_toNat s.sp.count b, rfl⟩

/-- Settles O6. -/
theorem spDatlLoadsTheValueLowByte : Obligations.SpDatlLoadsTheValueLowByte := by
  intro b s
  rw [← lowByte_eq_ofNat]
  exact ⟨fun h => decode_spb h b, _, half_sub_one_toNat s.sp.count, rfl⟩

/-- The last cell of a record. -/
theorem spDath_last (b : Byte) {s : State} (h : s.sp.count - 1 = 0) :
    spDath b s = setSp (resync b { s.sp with
        value := addHighByte s.sp.value b, count := s.sp.count - 1, state := .addressLow })
      (emitSp (if s.sp.address = 0xFFFE then .sync else .data s.sp.address (addHighByte s.sp.value b)) s) :=
  if_pos h

/-- A cell that others follow. -/
theorem spDath_more (b : Byte) {s : State} (h : s.sp.count - 1 ≠ 0) :
    spDath b s = setSp (resync b { s.sp with
        value := addHighByte s.sp.value b, count := s.sp.count - 1, address := s.sp.address + 2, state := .dataLow })
      (emitSp (.data s.sp.address (addHighByte s.sp.value b)) s) :=
  if_neg h

/-- Settles O7: the two branches are those of the count after the decrement. -/
theorem spDathEmitsTheCell : Obligations.SpDathEmitsTheCell := by
  intro b s
  refine ⟨fun h => decode_spb h b, _, _, _, addHighByte_toNat s.sp.value b, half_sub_one_toNat s.sp.count,
    BitVec.toNat_add s.sp.address 2, congrArg Host.Outcome.next (?_ : spDath b s = _)⟩
  have hsync : s.sp.address = 0xFFFE ↔ s.sp.address.toNat = 0xFFFE := BitVec.toNat_inj.symm
  by_cases hend : s.sp.count - 1 = 0
  · have hzero : (s.sp.count - 1).toNat = 0 := congrArg BitVec.toNat hend
    simp only [if_pos hzero, spDath_last b hend, hsync]
    rfl
  · have hpos : (s.sp.count - 1).toNat ≠ 0 := fun h => hend (BitVec.eq_of_toNat_eq h)
    rw [if_neg hpos, spDath_more b hend]
    rfl

/-! ### The resynchronisation step -/

theorem resync_fourth {r : SpRegs} (h : r.syncRun = 3) :
    resync 0x55 r = { r with state := .addressLow, syncRun := 0 } := by
  rw [resync, if_pos rfl, if_pos h]

theorem resync_marker {r : SpRegs} (h : r.syncRun ≠ 3) :
    resync 0x55 r = { r with syncRun := r.syncRun + 1 } := by
  rw [resync, if_pos rfl, if_neg h]

theorem resync_other {b : Byte} (h : b ≠ 0x55) (r : SpRegs) : resync b r = { r with syncRun := 0 } := if_neg h

/-- The run counter holds any run below 4, so below 3 it counts up without a wrap. -/
theorem syncRun_succ_toNat {n : BitVec 2} (h : n ≠ 3) : (n + 1).toNat = n.toNat + 1 := by
  have hne : n.toNat ≠ 3 := fun h3 => h (BitVec.eq_of_toNat_eq h3)
  rw [BitVec.toNat_add]
  change (n.toNat + 1) % 4 = n.toNat + 1
  omega

/-- Settles O8. -/
theorem spResyncCountsTheRun : Obligations.SpResyncCountsTheRun := by
  have hexec : ∀ (b : Byte) (s : State), exec (.spResync b) s = .next (setSp (resync b s.sp) s) := fun _ _ => rfl
  intro b s
  refine ⟨?_, ?_, ?_, fun _ => rfl⟩
  · rintro rfl hrun
    rw [hexec, resync_fourth hrun]
    rfl
  · rintro rfl hrun
    refine ⟨_, syncRun_succ_toNat hrun, ?_⟩
    rw [hexec, resync_marker hrun]
    rfl
  · intro hb
    rw [hexec, resync_other hb]
    rfl

/-- Every SP operation ends with the resynchronisation step, and leaves the run to it (40_stream_parser.md R130). -/
theorem spByte_sp_eq_resync (b : Byte) (s : State) :
    ∃ r : SpRegs, r.syncRun = s.sp.syncRun ∧ (spByte b s).sp = resync b r := by
  cases hst : s.sp.state
  case dataHigh =>
    have hbyte : spByte b s = spDath b s := spByte_eq hst rfl
    by_cases hend : s.sp.count - 1 = 0
    · rw [hbyte, spDath_last b hend]
      refine ⟨_, ?_, setSp_sp _ _⟩
      rfl
    · rw [hbyte, spDath_more b hend]
      refine ⟨_, ?_, setSp_sp _ _⟩
      rfl
  all_goals
    rw [spByte_eq hst rfl]
    refine ⟨_, ?_, setSp_sp _ _⟩
    rfl

section SyncRun

variable {s : State}

theorem spByte_fourth (h : s.sp.syncRun = 3) :
    (spByte 0x55 s).sp.state = .addressLow ∧ (spByte 0x55 s).sp.syncRun = 0 := by
  obtain ⟨r, hr, e⟩ := spByte_sp_eq_resync 0x55 s
  rw [e, resync_fourth (hr.trans h)]
  exact ⟨rfl, rfl⟩

theorem spByte_marker_syncRun {n : BitVec 2} (h : s.sp.syncRun = n) (hn : n ≠ 3) :
    (spByte 0x55 s).sp.syncRun = n + 1 := by
  obtain ⟨r, hr, e⟩ := spByte_sp_eq_resync 0x55 s
  have hrun : r.syncRun = n := hr.trans h
  rw [e, resync_marker (hrun ▸ hn), hrun]

theorem spByte_other_syncRun {b : Byte} (h : b ≠ 0x55) : (spByte b s).sp.syncRun = 0 := by
  obtain ⟨r, -, e⟩ := spByte_sp_eq_resync b s
  rw [e, resync_other h]

end SyncRun

/-! ### Bytes on `sp_in` -/

/-- By induction on the bytes. -/
theorem runEvents_onSpIn (bs : List Byte) (s : State) : runEvents (onSpIn bs) s = .next (spBytes bs s) := by
  induction bs generalizing s with
  | nil => rfl
  | cons b bs ih => exact (runEvents_cons_of_perform (perform_spb b s) (onSpIn bs)).trans (ih (spByte b s))

/-- Settles O9. -/
theorem spBufIsByteByByte : Obligations.SpBufIsByteByByte := fun bs cs s =>
  ⟨⟨spBytes bs s, rfl, runEvents_onSpIn bs s, congrArg Host.Outcome.next (spBytes_append bs cs s)⟩, rfl⟩

/-- Settles O35: the byte sets the run to 0, three markers take it to 3, and the fourth resynchronises. -/
theorem markerResynchronises : Obligations.MarkerResynchronises := by
  intro b s hb
  refine ⟨_, runEvents_onSpIn _ s, ?_⟩
  have h₀ : (spByte b s).sp.syncRun = 0 := spByte_other_syncRun hb
  have h₁ : (spByte 0x55 (spByte b s)).sp.syncRun = 1 := spByte_marker_syncRun h₀ (by decide)
  have h₂ : (spByte 0x55 (spByte 0x55 (spByte b s))).sp.syncRun = 2 := spByte_marker_syncRun h₁ (by decide)
  have h₃ : (spByte 0x55 (spByte 0x55 (spByte 0x55 (spByte b s)))).sp.syncRun = 3 :=
    spByte_marker_syncRun h₂ (by decide)
  exact spByte_fourth h₃

/-! ### Any number of bytes `0x55` -/

/-- SP's registers after `n` bytes `0x55` from `WaitForSync` with the run at 0. After each fourth byte SP expects an
address, whose two bytes `0x55` make the address `0x5555`, so SP falls back to `WaitForSync` (40_stream_parser.md
R140). -/
inductive AfterMarkers (n : Nat) (r : SpRegs) : Prop
  | searching (hn : n < 4 ∨ 2 ≤ n % 4) (hst : r.state = .waitForSync) (hrun : r.syncRun.toNat = n % 4)
  | addressLow (hn : 4 ≤ n ∧ n % 4 = 0) (hst : r.state = .addressLow) (hrun : r.syncRun.toNat = 0)
  | addressHigh (hn : 4 ≤ n ∧ n % 4 = 1) (hst : r.state = .addressHigh) (hrun : r.syncRun.toNat = 1)
      (haddr : r.address = 0x0055)

theorem AfterMarkers.syncRun {n : Nat} {r : SpRegs} (h : AfterMarkers n r) : r.syncRun.toNat = n % 4 := by
  cases h with
  | searching _ _ hrun => exact hrun
  | addressLow hn _ hrun => omega
  | addressHigh hn _ hrun => omega

theorem AfterMarkers.state {n : Nat} {r : SpRegs} (h : AfterMarkers n r) :
    r.state = (if n < 4 then .waitForSync
      else if n % 4 = 0 then .addressLow
      else if n % 4 = 1 then .addressHigh
      else .waitForSync) := by
  cases h with
  | searching hn hst =>
    rw [hst]
    split_ifs
    · rfl
    · omega
    · omega
    · rfl
  | addressLow hn hst => rw [hst, if_neg (by omega), if_pos hn.2]
  | addressHigh hn hst => rw [hst, if_neg (by omega), if_neg (by omega), if_pos hn.2]

/-- One more byte `0x55`, which emits nothing. -/
theorem AfterMarkers.step {n : Nat} {s : State} (h : AfterMarkers n s.sp) :
    AfterMarkers (n + 1) (spByte 0x55 s).sp ∧ (spByte 0x55 s).out = s.out := by
  cases h with
  | searching hn hst hrun =>
    have hbyte : spByte 0x55 s = spWfs 0x55 s := spByte_eq hst rfl
    rw [hbyte, spWfs, setSp_sp]
    refine ⟨?_, rfl⟩
    by_cases h3 : s.sp.syncRun = 3
    · have hn3 : n % 4 = 3 := by rw [← hrun, h3]; rfl
      rw [resync_fourth h3]
      exact .addressLow (by omega) rfl rfl
    · have hsucc : (s.sp.syncRun + 1).toNat = n % 4 + 1 := by rw [syncRun_succ_toNat h3, hrun]
      have hlt : (s.sp.syncRun + 1).toNat < 4 := (s.sp.syncRun + 1).isLt
      have hrun' : (s.sp.syncRun + 1).toNat = (n + 1) % 4 := by omega
      rw [resync_marker h3]
      exact .searching (by omega) hst hrun'
  | addressLow hn hst hrun =>
    have hbyte : spByte 0x55 s = spAddrl 0x55 s := spByte_eq hst rfl
    have hrun' : s.sp.syncRun = 0 := BitVec.eq_of_toNat_eq hrun
    rw [hbyte, spAddrl, setSp_sp, resync_marker (by rw [hrun']; decide), hrun']
    exact ⟨.addressHigh (by omega) rfl rfl rfl, rfl⟩
  | addressHigh hn hst hrun haddr =>
    have hbyte : spByte 0x55 s = spAddrh 0x55 s := spByte_eq hst rfl
    have hrun' : s.sp.syncRun = 1 := BitVec.eq_of_toNat_eq hrun
    have hsum : addHighByte s.sp.address 0x55 = 0x5555 := by rw [haddr]; decide
    have htwo : 2 = (n + 1) % 4 := by omega
    simp only [hbyte, spAddrh, hsum, if_true]
    rw [setSp_sp, resync_marker (by rw [hrun']; decide), hrun']
    exact ⟨.searching (by omega) rfl htwo, rfl⟩

/-- Settles O34, by induction on the number of bytes, the last of them split off. -/
theorem syncRunLengths : Obligations.SyncRunLengths := by
  intro n s hst hrun
  have hafter : AfterMarkers n (spBytes (List.replicate n 0x55) s).sp ∧
      (spBytes (List.replicate n 0x55) s).out = s.out := by
    induction n with
    | zero => exact ⟨.searching (.inl (by omega)) hst (congrArg BitVec.toNat hrun), rfl⟩
    | succ n ih =>
      obtain ⟨hregs, hout⟩ := ih
      obtain ⟨hregs', hout'⟩ := hregs.step
      rw [List.replicate_succ', spBytes_append]
      exact ⟨hregs', hout'.trans hout⟩
  obtain ⟨hregs, hout⟩ := hafter
  exact ⟨_, runEvents_onSpIn _ s, hregs.syncRun, hout, hregs.state⟩

end Sys2Proof.Machine

/-! PROOFS. RB's burst push (41_ring_buffer.md R150, R151), of which a push is the burst of one byte. -/

namespace Sys2Proof.Machine

theorem exec_rbPushn_nil (s : State) : exec (.rbPushn []) s = .next s := rfl

theorem exec_rbPushn_singleton (b : Byte) (s : State) : exec (.rbPushn [b]) s = exec (.rbPush b) s := rfl

theorem exec_rbPushn_cons_of_running (b : Byte) (bs : List Byte) {s : State} (hrun : s.bc.fault = .none) :
    exec (.rbPushn (b :: bs)) s = .next (pushed (b :: bs) s) :=
  congrArg _ (whileRunning_of_running hrun)

theorem pushed_of_fits {bs : List Byte} {s : State} (hfits : s.rbQ.length + bs.length ≤ s.params.capacity) :
    pushed bs s = setRbQ (s.rbQ ++ bs) s := by
  rcases pushed_cases bs s with ⟨-, hpushed⟩ | ⟨hover, -⟩
  · exact hpushed
  · omega

theorem pushed_of_overflow {bs : List Byte} {s : State} (hover : s.params.capacity < s.rbQ.length + bs.length) :
    pushed bs s = raiseFault .overflow s := by
  rcases pushed_cases bs s with ⟨hfits, -⟩ | ⟨-, hpushed⟩
  · omega
  · exact hpushed

/-- A burst that fits is stored whole; of the burst of no byte there is nothing to store. -/
theorem exec_rbPushn_of_fits {bs : List Byte} {s : State} (hrun : s.bc.fault = .none)
    (hfits : s.rbQ.length + bs.length ≤ s.params.capacity) :
    exec (.rbPushn bs) s = .next (setRbQ (s.rbQ ++ bs) s) := by
  cases bs with
  | nil => rw [exec_rbPushn_nil, List.append_nil]; rfl
  | cons b bs => rw [exec_rbPushn_cons_of_running b bs hrun, pushed_of_fits hfits]

/-- A burst of some byte that does not fit stores none of it. -/
theorem exec_rbPushn_of_overflow {bs : List Byte} {s : State} (hrun : s.bc.fault = .none) (hbs : bs ≠ [])
    (hover : s.params.capacity < s.rbQ.length + bs.length) :
    exec (.rbPushn bs) s = .next (raiseFault .overflow s) := by
  cases bs with
  | nil => exact absurd rfl hbs
  | cons b bs => rw [exec_rbPushn_cons_of_running b bs hrun, pushed_of_overflow hover]

/-- Settles O10: the clauses about a push are those about a burst, at the burst of one byte. -/
theorem rbPushIsAllOrNothing : Obligations.RbPushIsAllOrNothing := by
  intro b bs s hrun
  refine ⟨fun hroom => ?push_fits, fun hfull => ?push_full, exec_rbPushn_of_fits hrun, exec_rbPushn_of_overflow hrun,
    exec_rbPushn_nil s, exec_rbPushn_singleton b s⟩
  case push_fits =>
    have hfits : s.rbQ.length + [b].length ≤ s.params.capacity := hroom
    exact (exec_rbPushn_singleton b s).symm.trans (exec_rbPushn_of_fits hrun hfits)
  case push_full =>
    have hover : s.params.capacity < s.rbQ.length + [b].length := by rw [hfull]; exact Nat.lt_succ_self _
    exact (exec_rbPushn_singleton b s).symm.trans (exec_rbPushn_of_overflow hrun (List.cons_ne_nil b []) hover)

end Sys2Proof.Machine

/-! PROOFS. BC (42_bus_controller.md): what each of its operations does, and what selects it. -/

namespace Sys2Proof.Machine

/-! ### Selection -/

theorem selector_halted {s : State} : s.selector.halted = false ↔ s.bc.fault = .none := by simp [State.selector]

/-- A running BC reads a byte on `dev_rx` by the state it is in (30_encoding.md R108). -/
theorem decode_drx_of_running {s : State} {st : BcRxState} (hrun : s.bc.fault = .none) (hst : s.bc.rxState = st)
    (b : Byte) : decode (.device (.drx b)) s.selector = .op (selectDev s.params st b) :=
  decode_drx_of_admits (Selector.admits_rx.mpr ⟨selector_halted.mpr hrun, hst⟩) b

/-- `BC.RDY` is selected by the ready byte of a running BC that awaits a notification, and by nothing else. -/
theorem decode_eq_bcRdy_iff {ev : Event} {s : State} : decode ev s.selector = .op .bcRdy ↔
    ev = .device (.drx s.params.stReady) ∧ s.bc.fault = .none ∧ s.bc.rxState = .awaitingNotification := by
  constructor
  · intro h
    obtain ⟨⟨home, henc, hadm⟩, -⟩ := encodeOfDecode ev s.selector .bcRdy h
    cases henc
    obtain ⟨hrun, hst⟩ := Selector.admits_rx.mp hadm
    exact ⟨rfl, selector_halted.mp hrun, hst⟩
  · rintro ⟨rfl, hrun, hst⟩
    exact (decode_drx_of_running hrun hst _).trans (congrArg _ selectStatus_stReady)

/-! ### The operations -/

/-- Operation `i` performs `f` while BC runs, and does nothing in a faulted BC (42_bus_controller.md R179). -/
def PerformsWhileRunning (i : Instr) (f : State → State) : Prop :=
  ∀ s : State, exec i s = .next (whileRunning f s)

theorem PerformsWhileRunning.running {i : Instr} {f : State → State} (h : PerformsWhileRunning i f) {s : State}
    (hrun : s.bc.fault = .none) : exec i s = .next (f s) := by
  rw [h s, whileRunning_of_running hrun]

theorem PerformsWhileRunning.faulted {i : Instr} {f : State → State} (h : PerformsWhileRunning i f) {s : State}
    (hfault : s.bc.fault ≠ .none) : exec i s = .next s := by
  rw [h s, whileRunning_of_faulted hfault]

theorem bcIng_performs {bs : List Byte} (hbs : bs ≠ []) : PerformsWhileRunning (.bcIng bs) (ingest bs) :=
  fun _ => congrArg _ (if_neg (by simpa using hbs))

theorem bcFlush_performs : PerformsWhileRunning .bcFlush flushIfDue := fun _ => rfl

theorem bcRdy_performs : PerformsWhileRunning .bcRdy fun s => flushIfDue (setReady true s) := fun _ => rfl

theorem bcFull_performs : PerformsWhileRunning .bcFull (setReady false) := fun _ => rfl

theorem bcErr_performs : PerformsWhileRunning .bcErr (setReady false) := fun _ => rfl

theorem bcMsg_performs : PerformsWhileRunning .bcMsg awaitingSize := fun _ => rfl

theorem bcMsize_performs (b : Byte) : PerformsWhileRunning (.bcMsize b) (messageSize b) := fun _ => rfl

theorem bcMdata_performs (b : Byte) : PerformsWhileRunning (.bcMdata b) (messageData b) := fun _ => rfl

/-! ### The bodies -/

theorem chunkOf_length (p : Params) (q : List Byte) : (chunkOf p q).length = min q.length p.maxPayload := by
  simp [chunkOf]

/-- What leaves the queue in a flush is the chunk that is sent. -/
theorem sendChunk_eq_drop_chunkOf (s : State) :
    sendChunk s = { s with
      rbQ := s.rbQ.drop (chunkOf s.params s.rbQ).length
      bc := { s.bc with ready := false }
      out := { s.out with devTx := s.out.devTx ++ [outboundFrame s.params (chunkOf s.params s.rbQ)] } } := by
  rw [sendChunk_eq, chunkOf_length]

section Bodies

variable {bs : List Byte} {s : State}

theorem flushIfDue_of_due (hready : s.bc.ready = true) (hq : s.rbQ ≠ []) : flushIfDue s = sendChunk s := by
  rcases flushIfDue_cases s with ⟨-, -, e⟩ | ⟨hready' | hq', -⟩
  · exact e
  · simp [hready] at hready'
  · exact absurd hq' hq

theorem flushIfDue_of_empty (hq : s.rbQ = []) : flushIfDue s = s := by
  rcases flushIfDue_cases s with ⟨-, hq', -⟩ | ⟨-, e⟩
  · exact absurd hq hq'
  · exact e

theorem ingest_of_overflow (hover : s.params.capacity < s.rbQ.length + bs.length) :
    ingest bs s = raiseFault .overflow s := by
  rcases ingest_cases bs s with ⟨-, e⟩ | ⟨hfits, -⟩ | ⟨hfits, -⟩
  · exact e
  · omega
  · omega

theorem ingest_of_no_credit (hfits : s.rbQ.length + bs.length ≤ s.params.capacity) (hready : s.bc.ready = false) :
    ingest bs s = setRbQ (s.rbQ ++ bs) s := by
  rcases ingest_cases bs s with ⟨hover, -⟩ | ⟨-, -, e⟩ | ⟨-, hready', -⟩
  · omega
  · exact e
  · simp [hready] at hready'

theorem ingest_of_credit (hbs : bs ≠ []) (hfits : s.rbQ.length + bs.length ≤ s.params.capacity)
    (hready : s.bc.ready = true) : ingest bs s = sendChunk (setRbQ (s.rbQ ++ bs) s) := by
  rcases ingest_cases bs s with ⟨hover, -⟩ | ⟨-, hready' | hempty, -⟩ | ⟨-, -, -, e⟩
  · omega
  · simp [hready] at hready'
  · exact absurd (List.append_eq_nil_iff.mp hempty).2 hbs
  · exact e

theorem messageData_of_last (b : Byte) (h : s.bc.msgRemaining - 1 = 0) : messageData b s =
    setBc { s.bc with msgRemaining := s.bc.msgRemaining - 1, msgBuf := [], rxState := .awaitingNotification }
      (emitCommand (s.bc.msgBuf ++ [b]) s) :=
  if_pos h

theorem messageData_of_more (b : Byte) (h : s.bc.msgRemaining - 1 ≠ 0) : messageData b s =
    setBc { s.bc with msgRemaining := s.bc.msgRemaining - 1, msgBuf := s.bc.msgBuf ++ [b] } s :=
  if_neg h

end Bodies

/-- The count goes down modulo 256 (42_bus_controller.md R175). -/
theorem byte_sub_one_toNat (n : Byte) : (n - 1).toNat = (n.toNat + 255) % 256 := by
  rw [BitVec.toNat_sub, Nat.add_comm]
  rfl

end Sys2Proof.Machine

/-! PROOFS. The credit protocol (42_bus_controller.md R176, R178): each frame is paid for by a credit that a ready byte
granted. -/

namespace Sys2Proof.Machine

theorem credit_le_one (s : State) : credit s ≤ 1 := by
  unfold credit
  split <;> decide

theorem credit_of_ready {s : State} (h : s.bc.ready = true) : credit s = 1 := if_pos h

theorem credit_eq_zero_iff {s : State} : credit s = 0 ↔ s.bc.ready = false := by simp [credit]

/-- From `s` to `t`, with `n` credits granted between them: the frames sent, and the credit held at the end, are no more
than the credits granted and the credit held at the start. -/
def PaidBy (n : Nat) (s t : State) : Prop :=
  ∃ frames : List (List Byte), t.out.devTx = s.out.devTx ++ frames ∧ frames.length + credit t ≤ n + credit s

section PaidBy

variable {n m : Nat} {s u t : State}

theorem PaidBy.of_no_frame (htx : t.out.devTx = s.out.devTx) (hcredit : credit t ≤ n + credit s) : PaidBy n s t :=
  ⟨[], by simp [htx], by simpa using hcredit⟩

/-- What neither sends nor grants is paid for. -/
theorem PaidBy.of_unchanged (htx : t.out.devTx = s.out.devTx) (hready : t.bc.ready = s.bc.ready) : PaidBy n s t :=
  .of_no_frame htx (by simp [credit, hready])

theorem PaidBy.refl (s : State) : PaidBy n s s := .of_unchanged rfl rfl

theorem PaidBy.trans (hsu : PaidBy n s u) (hut : PaidBy m u t) : PaidBy (n + m) s t := by
  obtain ⟨fs₁, htx₁, hle₁⟩ := hsu
  obtain ⟨fs₂, htx₂, hle₂⟩ := hut
  refine ⟨fs₁ ++ fs₂, by rw [htx₂, htx₁, List.append_assoc], ?_⟩
  rw [List.length_append]
  omega

/-- Without a credit before or a grant between, nothing is sent and no credit is held after. -/
theorem PaidBy.silent (h : PaidBy 0 s t) (hready : s.bc.ready = false) :
    t.out.devTx = s.out.devTx ∧ t.bc.ready = false := by
  obtain ⟨frames, htx, hle⟩ := h
  have hcredit : credit s = 0 := credit_eq_zero_iff.mpr hready
  have hnone : frames = [] := List.eq_nil_of_length_eq_zero (by omega)
  exact ⟨by rw [htx, hnone, List.append_nil], credit_eq_zero_iff.mp (by omega)⟩

/-! ### The operations of BC -/

theorem whileRunning_paidBy {f : State → State} (hf : PaidBy n s (f s)) : PaidBy n s (whileRunning f s) := by
  rcases whileRunning_eq_or f s with e | e
  · rwa [e]
  · rw [e]; exact .refl s

/-- A frame is sent for the credit that it clears. -/
theorem sendChunk_paidBy (hready : s.bc.ready = true) : PaidBy n s (sendChunk s) := by
  rw [sendChunk_eq]
  refine ⟨_, rfl, ?_⟩
  rw [credit_of_ready hready]
  exact Nat.le_add_left 1 n

theorem flushIfDue_paidBy (s : State) : PaidBy n s (flushIfDue s) := by
  rcases flushIfDue_cases s with ⟨hready, -, e⟩ | ⟨-, e⟩
  · rw [e]; exact sendChunk_paidBy hready
  · rw [e]; exact .refl s

theorem ingest_paidBy (bs : List Byte) (s : State) : PaidBy n s (ingest bs s) := by
  rcases ingest_cases bs s with ⟨-, e⟩ | ⟨-, -, e⟩ | ⟨-, hready, -, e⟩
  · rw [e]; exact .of_unchanged rfl rfl
  · rw [e]; exact .of_unchanged rfl rfl
  · rw [e]; exact sendChunk_paidBy (s := setRbQ (s.rbQ ++ bs) s) hready

/-- The one operation that needs a grant. -/
theorem grant_paidBy (hn : 1 ≤ n) (s : State) : PaidBy n s (flushIfDue (setReady true s)) := by
  have hgrant : PaidBy n s (setReady true s) :=
    .of_no_frame rfl ((credit_le_one _).trans (hn.trans (Nat.le_add_right n _)))
  exact hgrant.trans (m := 0) (flushIfDue_paidBy _)

theorem withdraw_paidBy (s : State) : PaidBy n s (setReady false s) := .of_no_frame rfl (Nat.zero_le _)

theorem messageSize_paidBy (b : Byte) (s : State) : PaidBy n s (messageSize b s) := by
  unfold messageSize
  split <;> exact .of_unchanged rfl rfl

theorem messageData_paidBy (b : Byte) (s : State) : PaidBy n s (messageData b s) := by
  simp only [messageData]
  split <;> exact .of_unchanged rfl rfl

/-- Of the operations that a byte on `dev_rx` can select only `BC.RDY` needs a grant. -/
theorem exec_selectDev_paidBy {p : Params} {st : BcRxState} {b : Byte}
    (hn : selectDev p st b = .bcRdy → 1 ≤ n) (s : State) :
    ∃ t, exec (selectDev p st b) s = .next t ∧ PaidBy n s t := by
  cases st with
  | awaitingNotification =>
    simp only [selectDev, selectStatus]
    split_ifs with hready
    · exact ⟨_, rfl, whileRunning_paidBy (grant_paidBy (hn (if_pos hready)) s)⟩
    · exact ⟨_, rfl, whileRunning_paidBy (withdraw_paidBy s)⟩
    · exact ⟨_, rfl, .refl s⟩
    · exact ⟨_, rfl, whileRunning_paidBy (withdraw_paidBy s)⟩
    · exact ⟨_, rfl, whileRunning_paidBy (.of_unchanged rfl rfl)⟩
    · exact ⟨_, rfl, .refl s⟩
  | messageSizeExpected => exact ⟨_, rfl, whileRunning_paidBy (messageSize_paidBy b s)⟩
  | messageDataExpected => exact ⟨_, rfl, whileRunning_paidBy (messageData_paidBy b s)⟩

theorem perform_ing_paidBy {bs : List Byte} (h : perform (.ingress (.ing bs)) s = .next t) : PaidBy n s t := by
  by_cases hbs : bs = []
  · subst hbs; cases h; exact .refl s
  · rw [perform_ing, bcIng_performs hbs] at h
    cases h
    exact whileRunning_paidBy (ingest_paidBy bs s)

/-! ### Grants -/

/-- A run of one event grants a credit if the event selects `BC.RDY`. -/
theorem readies_singleton (ev : Event) (s : State) :
    readies [ev] s = if decode ev s.selector = .op .bcRdy then 1 else 0 := by
  obtain ⟨t, ht⟩ := perform_next ev s
  simp [readies, ht]

theorem readies_cons {ev : Event} (h : perform ev s = .next t) (evs : List Event) :
    readies (ev :: evs) s = readies [ev] s + readies evs t := by
  simp [readies, h]

theorem perform_drx_paidBy {b : Byte} (h : perform (.device (.drx b)) s = .next t) :
    PaidBy (readies [.device (.drx b)] s) s t := by
  by_cases hrun : s.bc.fault = .none
  · have hn : selectDev s.params s.bc.rxState b = .bcRdy → 1 ≤ readies [.device (.drx b)] s := by
      intro hsel
      rw [readies_singleton, decode_drx_of_running hrun rfl, hsel, if_pos rfl]
    obtain ⟨u, hu, hpaid⟩ := exec_selectDev_paidBy hn s
    rw [perform_drx b s hrun, hu] at h
    cases h
    exact hpaid
  · rw [perform_drx_faulted b s hrun] at h
    cases h
    exact .refl s

/-- One event, port by port: only `ing` and `dev_rx` reach `dev_tx` and the credit, and `RESET` clears the credit. -/
theorem perform_paidBy {ev : Event} (h : perform ev s = .next t) : PaidBy (readies [ev] s) s t := by
  match ev with
  | .ingress (.spb _) => rw [perform_spb_writes h]; exact .of_unchanged rfl rfl
  | .ingress (.ing _) => exact perform_ing_paidBy h
  | .device (.drx _) => exact perform_drx_paidBy h
  | .device (.prx _) => rw [perform_prx_writes h]; exact .of_unchanged rfl rfl
  | .host .reset => cases h; exact .of_no_frame rfl (Nat.zero_le _)
  | .host (.query _) => rw [perform_query_writes h]; exact .of_unchanged rfl rfl

/-- By induction on the run. -/
theorem runEvents_paidBy {evs : List Event} (h : runEvents evs s = .next t) : PaidBy (readies evs s) s t := by
  induction evs generalizing s with
  | nil => cases h; exact .refl _
  | cons ev evs ih =>
    obtain ⟨u, hu, hrun⟩ := runEvents_cons h
    rw [readies_cons hu]
    exact (perform_paidBy hu).trans (ih hrun)

/-- A run without a byte on `dev_rx` grants nothing, by induction on it. -/
theorem readies_eq_zero {evs : List Event} (hno : evs.all noDeviceByte = true) (s : State) : readies evs s = 0 := by
  induction evs generalizing s with
  | nil => rfl
  | cons ev evs ih =>
    obtain ⟨hev, hevs⟩ : noDeviceByte ev = true ∧ evs.all noDeviceByte = true := by simpa using hno
    obtain ⟨t, ht⟩ := perform_next ev s
    have hsel : decode ev s.selector ≠ .op .bcRdy := by
      intro h
      obtain ⟨rfl, -⟩ := decode_eq_bcRdy_iff.mp h
      cases hev
    rw [readies_cons ht, readies_singleton, if_neg hsel, ih hevs]

end PaidBy

/-- Settles O54: the frames sent in a run are those that its grants and the credit at its start pay for. -/
theorem framesAreBoundedByReadies : Obligations.FramesAreBoundedByReadies := by
  intro evs s t h
  obtain ⟨frames, htx, hle⟩ := runEvents_paidBy h
  rw [htx, List.length_append]
  omega

/-- Settles O53: such a run grants nothing. -/
theorem noReadyNoFrame : Obligations.NoReadyNoFrame := by
  intro evs s t hready hno h
  have hpaid : PaidBy (readies evs s) s t := runEvents_paidBy h
  rw [readies_eq_zero hno] at hpaid
  exact hpaid.silent hready

/-- Settles O52: an event that does not select `BC.RDY` grants nothing. -/
theorem onlyReadyGrantsCredit : Obligations.OnlyReadyGrantsCredit := by
  intro ev s t hready h hready'
  refine decode_eq_bcRdy_iff.mp (by_contra fun hsel => ?_)
  have hpaid : PaidBy (readies [ev] s) s t := perform_paidBy h
  rw [readies_singleton, if_neg hsel] at hpaid
  have hclear : t.bc.ready = false := (hpaid.silent hready).2
  simp [hready'] at hclear

end Sys2Proof.Machine

/-! PROOFS. A faulted BC (42_bus_controller.md R179), and SP and PP beside it. -/

namespace Sys2Proof.Machine

section Faulted

variable {s t : State}

theorem perform_ing_faulted (bs : List Byte) (hfault : s.bc.fault ≠ .none) :
    perform (.ingress (.ing bs)) s = .next s := by
  by_cases hbs : bs = []
  · rw [hbs]; rfl
  · exact (bcIng_performs hbs).faulted hfault

/-- No event but `RESET` touches the registers of a faulted BC. -/
theorem perform_keeps_faulted_bc {ev : Event} (hfault : s.bc.fault ≠ .none) (hreset : ev ≠ .host .reset)
    (h : perform ev s = .next t) : t.bc = s.bc := by
  match ev with
  | .ingress (.spb _) => rw [perform_spb_writes h]
  | .ingress (.ing bs) => rw [perform_ing_faulted bs hfault] at h; cases h; rfl
  | .device (.drx b) => rw [perform_drx_faulted b s hfault] at h; cases h; rfl
  | .device (.prx _) => rw [perform_prx_writes h]
  | .host .reset => exact absurd rfl hreset
  | .host (.query _) => rw [perform_query_writes h]

theorem perform_clears_fault_iff {ev : Event} (hfault : s.bc.fault ≠ .none) (h : perform ev s = .next t) :
    t.bc.fault = .none ↔ ev = .host .reset := by
  constructor
  · intro hclear
    by_contra hreset
    rw [perform_keeps_faulted_bc hfault hreset h] at hclear
    exact hfault hclear
  · rintro rfl
    cases h
    rfl

/-! ### SP and PP act whatever BC's registers hold -/

theorem perform_spb_setBc {b : Byte} (h : perform (.ingress (.spb b)) s = .next t) (r : BcRegs) :
    perform (.ingress (.spb b)) (setBc r s) = .next (setBc r t) := by
  obtain ⟨r', new, hbyte⟩ := spByte_eq_spOutcome b s.sp
  rw [perform_spb, hbyte s rfl] at h
  rw [perform_spb, hbyte (setBc r s) rfl]
  cases h
  rfl

/-- Each of the six operations of PP. -/
theorem perform_prx_setBc {b : Byte} (h : perform (.device (.prx b)) s = .next t) (r : BcRegs) :
    perform (.device (.prx b)) (setBc r s) = .next (setBc r t) := by
  rw [perform_prx] at h ⊢
  rw [setBc_pp]
  cases hst : s.pp.state <;> rw [hst] at h
  case address | size | data => cases h; rfl
  case start | leadIn | checksum =>
    cases h
    rw [apply_ite (setBc r)]
    rfl

end Faulted

/-- Settles O50. -/
theorem faultedBusControllerIsDeaf : Obligations.FaultedBusControllerIsDeaf := fun s hfault =>
  ⟨fun bs => perform_ing_faulted bs hfault, fun b => perform_drx_faulted b s hfault,
    fun _ _ => perform_clears_fault_iff hfault,
    fun _ _ => ⟨fun h => perform_spb_setBc h s.bc, fun h => perform_prx_setBc h s.bc⟩⟩

end Sys2Proof.Machine

/-! PROOFS. BC's operations as the rules write them (42_bus_controller.md R165 to R175). -/

namespace Sys2Proof.Machine

/-- Settles O15. -/
theorem bcIngQueuesAndFlushes : Obligations.BcIngQueuesAndFlushes := by
  intro bs s hbs
  have hing : PerformsWhileRunning (.bcIng bs) (ingest bs) := bcIng_performs hbs
  refine ⟨fun _ => rfl, hing.faulted, fun hrun hover => ?overflow, fun hrun hfits hready => ?queued,
    fun hrun hfits hready => ?sent⟩
  case overflow => rw [hing.running hrun, ingest_of_overflow hover]; rfl
  case queued => rw [hing.running hrun, ingest_of_no_credit hfits hready]; rfl
  case sent => rw [hing.running hrun, ingest_of_credit hbs hfits hready, sendChunk_eq_drop_chunkOf]; rfl

/-- Settles O16: what an event selects has an encoding, and `BC.FLUSH` has none. -/
theorem bcFlushSendsOneChunk : Obligations.BcFlushSendsOneChunk := by
  refine ⟨fun ev sel hsel => ?_, fun s hrun hready hq => ?_⟩
  · obtain ⟨⟨home, henc, -⟩, -⟩ := encodeOfDecode ev sel .bcFlush hsel
    cases henc
  · rw [bcFlush_performs.running hrun, flushIfDue_of_due hready hq, sendChunk_eq, outboundFrame, sizeByte,
      frameChecksum, chunkOf_length]

/-- Settles O19: the flush after the grant is due exactly when something is queued. -/
theorem bcRdyGrantsAndSpendsTheCredit : Obligations.BcRdyGrantsAndSpendsTheCredit := by
  intro s
  refine ⟨fun hrun hst => decode_eq_bcRdy_iff.mpr ⟨rfl, hrun, hst⟩, bcRdy_performs.faulted, fun hrun hq => ?kept,
    fun hrun hq => ?spent⟩
  case kept => rw [bcRdy_performs.running hrun, flushIfDue_of_empty (s := setReady true s) hq]; rfl
  case spent =>
    rw [bcRdy_performs.running hrun, flushIfDue_of_due (s := setReady true s) rfl hq, sendChunk_eq_drop_chunkOf]
    rfl

/-- Settles O20. -/
theorem bcFullAndErrWithdrawTheCredit : Obligations.BcFullAndErrWithdrawTheCredit := by
  intro s
  refine ⟨fun hwf hrun hst => ?_, fun hfault => ⟨bcFull_performs.faulted hfault, bcErr_performs.faulted hfault⟩,
    fun hrun => ⟨bcFull_performs.running hrun, bcErr_performs.running hrun⟩⟩
  obtain ⟨hfull, -, herr, -⟩ := selectStatus_of_nodup (Params.statusCodes_nodup hwf)
  exact ⟨(decode_drx_of_running hrun hst _).trans (congrArg _ hfull),
    (decode_drx_of_running hrun hst _).trans (congrArg _ herr)⟩

/-- Settles O21. -/
theorem bcDrcvAndUnkChangeNothing : Obligations.BcDrcvAndUnkChangeNothing := by
  intro b s
  refine ⟨fun hwf hrun hst => ?_, fun hb hrun hst => ?_, rfl, rfl⟩
  · obtain ⟨-, hdrcv, -, -⟩ := selectStatus_of_nodup (Params.statusCodes_nodup hwf)
    exact (decode_drx_of_running hrun hst _).trans (congrArg _ hdrcv)
  · exact (decode_drx_of_running hrun hst _).trans (congrArg _ (selectStatus_of_not_mem hb))

/-- Settles O22. -/
theorem bcMsgExpectsTheSize : Obligations.BcMsgExpectsTheSize := by
  intro s
  refine ⟨fun hwf hrun hst => ?_, bcMsg_performs.faulted, bcMsg_performs.running⟩
  obtain ⟨-, -, -, hmsg⟩ := selectStatus_of_nodup (Params.statusCodes_nodup hwf)
  exact (decode_drx_of_running hrun hst _).trans (congrArg _ hmsg)

/-- Settles O23: the test of the size for 0 is a test of its number. -/
theorem bcMsizeTakesTheSize : Obligations.BcMsizeTakesTheSize := by
  intro b s
  refine ⟨fun hrun hst => decode_drx_of_running hrun hst b, (bcMsize_performs b).faulted, fun hrun hb => ?_,
    fun hrun hb => ?_⟩
  · have hzero : b = 0 := BitVec.eq_of_toNat_eq hb
    rw [(bcMsize_performs b).running hrun, messageSize, if_pos hzero]
    rfl
  · have hpos : b ≠ 0 := fun h => hb (congrArg BitVec.toNat h)
    rw [(bcMsize_performs b).running hrun, messageSize, if_neg hpos]
    rfl

/-- Settles O24: the two branches are those of the count after the decrement. -/
theorem bcMdataCollectsTheMessage : Obligations.BcMdataCollectsTheMessage := by
  intro b s
  refine ⟨fun hrun hst => decode_drx_of_running hrun hst b, (bcMdata_performs b).faulted, fun hrun =>
    ⟨_, byte_sub_one_toNat s.bc.msgRemaining, fun hleft => ?_, fun hleft => ?_⟩⟩
  · have hlast : s.bc.msgRemaining - 1 = 0 := BitVec.eq_of_toNat_eq hleft
    rw [(bcMdata_performs b).running hrun, messageData_of_last b hlast]
    rfl
  · have hmore : s.bc.msgRemaining - 1 ≠ 0 := fun h => hleft (congrArg BitVec.toNat h)
    rw [(bcMdata_performs b).running hrun, messageData_of_more b hmore]
    rfl

end Sys2Proof.Machine

/-! PROOFS. PP's operations as the rules write them (43_packet_parser.md R191 to R197), and a packet whose checksum byte
does not match (R198). -/

namespace Sys2Proof.Machine

/-! ### Selection and the shared steps -/

theorem decode_prx {s : State} {st : PpState} (hst : s.pp.state = st) (b : Byte) :
    decode (.device (.prx b)) s.selector = .op (selectPp st b) :=
  decode_prx_of_admits (Selector.admits_pp.mpr hst) b

theorem addToSum_toNat (c b : Byte) : (addToSum c b).toNat = (c.toNat + b.toNat) % 256 := BitVec.toNat_add c b

theorem byte_eq_zero_iff {b : Byte} : b = 0 ↔ b.toNat = 0 := BitVec.toNat_eq

/-- PP cleared after a discard (43_packet_parser.md R197; 10_state.md R43). -/
theorem ppClear_countDiscard (p : Params) (r : PpRegs) : ppClear (countDiscard p r) =
    ⟨.start, 0, 0, 0, 0, 0, [], r.discards + if p.hasDiscardCounter then 1 else 0⟩ := by
  cases hcount : p.hasDiscardCounter <;> simp only [countDiscard, hcount] <;> rfl

/-! ### The two branches of `PP.SIZE` and of `PP.CKSUM` -/

section Branches

variable {b : Byte} {s : State}

theorem exec_ppSize_of_oversize (h : s.params.ppMaxSize < b.toNat) :
    exec (.ppSize b) s = .next (setPp (ppClear (countDiscard s.params s.pp)) s) :=
  congrArg (fun r => Host.Outcome.next (setPp r s)) (if_pos (decide_eq_true h))

theorem exec_ppSize_of_fits (h : b.toNat ≤ s.params.ppMaxSize) :
    exec (.ppSize b) s = .next (setPp (acceptSize b s.pp) s) := by
  have hfits : ¬oversize s.params b = true := by simpa only [oversize, decide_eq_true_eq, not_lt] using h
  exact congrArg (fun r => Host.Outcome.next (setPp r s)) (if_neg hfits)

theorem exec_ppCksum_of_match (h : b = s.pp.sum) : exec (.ppCksum b) s =
    .next (setPp (ppClear s.pp) (emitPacket ⟨s.pp.type, s.pp.address, s.pp.buf⟩ s)) :=
  congrArg Host.Outcome.next (if_pos h)

theorem exec_ppCksum_of_mismatch (h : b ≠ s.pp.sum) :
    exec (.ppCksum b) s = .next (setPp (ppClear (countDiscard s.params s.pp)) s) :=
  congrArg Host.Outcome.next (if_neg h)

/-- The byte that differs from the sum discards the packet. -/
theorem perform_ppCksum_of_mismatch {r : PpRegs} (hst : r.state = .checksum) (h : b ≠ r.sum) :
    perform (.device (.prx b)) (setPp r s) = .next (setPp (ppClear (countDiscard s.params r)) s) := by
  rw [perform_prx, setPp_pp, hst]
  exact exec_ppCksum_of_mismatch h

end Branches

/-- Settles O26. -/
theorem ppLooksForTheMarkers : Obligations.PpLooksForTheMarkers := fun b _ =>
  ⟨fun hst => decode_prx hst b, fun hmark => congrArg Host.Outcome.next (if_pos hmark),
    fun hother => congrArg Host.Outcome.next (if_neg hother), fun hst => decode_prx hst b,
    fun hmark => congrArg Host.Outcome.next (if_pos hmark), fun hother => congrArg Host.Outcome.next (if_neg hother)⟩

/-- Settles O27. -/
theorem ppAddrSplitsTheByte : Obligations.PpAddrSplitsTheByte := fun b _ =>
  ⟨fun hst => decode_prx hst b, packetType b, packetAddress b, packetType_toNat b, packetAddress_toNat b, rfl⟩

/-- Settles O28: the test of the size for 0 is a test of its number. -/
theorem ppSizeAcceptsOrDiscards : Obligations.PpSizeAcceptsOrDiscards := by
  intro b s
  refine ⟨fun hst => decode_prx hst b, fun hover => ?oversize, fun hfits =>
    ⟨addToSum s.pp.sum b, addToSum_toNat _ _, fun hb => ?empty, fun hb => ?payload⟩⟩
  case oversize => rw [exec_ppSize_of_oversize hover, ppClear_countDiscard]; rfl
  case empty => rw [exec_ppSize_of_fits hfits, acceptSize, if_pos (byte_eq_zero_iff.mpr hb)]; rfl
  case payload => rw [exec_ppSize_of_fits hfits, acceptSize, if_neg (mt byte_eq_zero_iff.mp hb)]; rfl

/-- Settles O29: the two branches are those of the count after the decrement. -/
theorem ppDataCollectsThePayload : Obligations.PpDataCollectsThePayload := by
  intro b s
  refine ⟨fun hst => decode_prx hst b, addToSum s.pp.sum b, s.pp.remaining - 1, addToSum_toNat _ _,
    byte_sub_one_toNat _, ?_⟩
  simp only [← byte_eq_zero_iff]
  rfl

/-- Settles O30. -/
theorem ppCksumEmitsOrDiscards : Obligations.PpCksumEmitsOrDiscards := by
  intro b s
  refine ⟨fun hst => decode_prx hst b, exec_ppCksum_of_match, fun hbad => ?_⟩
  rw [exec_ppCksum_of_mismatch hbad, ppClear_countDiscard]
  rfl

/-! ### A packet with a wrong checksum byte -/

theorem flipBit_ne (b : Byte) (k : Fin 8) : flipBit b k ≠ b := by
  intro h
  have hbit : (flipBit b k).getLsbD k = b.getLsbD k := congrArg (·.getLsbD k) h
  simp [flipBit] at hbit

/-- Two payloads that differ in one byte have different checksums: that byte is a summand modulo 256. -/
theorem packetChecksum_ne_of_byte_ne (ta : Byte) (pre post : List Byte) {x y : Byte} (hxy : x ≠ y) :
    packetChecksum ta (pre ++ x :: post) ≠ packetChecksum ta (pre ++ y :: post) := by
  intro h
  simp only [packetChecksum_eq, byteSum_append, byteSum, List.length_append, List.length_cons, BitVec.ofNat_add,
    BitVec.ofNat_toNat, BitVec.setWidth_eq, BitVec.add_right_inj, BitVec.add_left_inj] at h
  exact hxy h

/-- The whole packet is received as if it were good; at its last byte it is discarded and counted. -/
theorem runEvents_packetBytes_of_bad_checksum {ta cks : Byte} {d : List Byte} {s : State} (hst : s.pp.state = .start)
    (hlen : d.length ≤ s.params.ppMaxSize) (hmax : s.params.ppMaxSize ≤ 255) (hbad : cks ≠ packetChecksum ta d) :
    runEvents (onPktRx (packetBytes s.params ta d cks)) s = .next { s with
      pp := ⟨.start, 0, 0, 0, 0, 0, [], s.pp.discards + if s.params.hasDiscardCounter then 1 else 0⟩ } := by
  obtain ⟨left, hbody⟩ := runEvents_packetBody (r := s.pp) ta d hst hlen hmax
  have hcks := perform_ppCksum_of_mismatch (s := s) (r := awaitingChecksum ta d left s.pp.discards) rfl hbad
  rw [ppClear_countDiscard] at hcks
  rw [packetBytes_eq, onPktRx_append]
  exact (runEvents_append hbody).trans (runEvents_cons_of_perform hcks [])

/-- Settles O32: a flipped payload bit moves the sum away from the checksum byte, a flipped checksum bit the byte away from
the sum. -/
theorem bitFlipRejectsThePacket : Obligations.BitFlipRejectsThePacket := by
  intro ta d k s hst hlen hmax
  refine ⟨fun pre post x hd => ?payload, ?checksum⟩
  case payload =>
    subst hd
    have hlen' : (pre ++ flipBit x k :: post).length ≤ s.params.ppMaxSize := by simpa using hlen
    exact runEvents_packetBytes_of_bad_checksum hst hlen' hmax
      (packetChecksum_ne_of_byte_ne ta pre post (flipBit_ne x k).symm)
  case checksum => exact runEvents_packetBytes_of_bad_checksum hst hlen hmax (flipBit_ne _ k)

end Sys2Proof.Machine

/-! PROOFS. A 16-bit register of SP is assembled without a wrap (44_operation_classes.md R260). -/

namespace Sys2Proof.Machine

/-- Where SP expects a high byte, the register to be completed holds a low byte only. -/
def LowByteHeld (r : SpRegs) : Prop :=
  match r.state with
  | .addressHigh => r.address.toNat < 256
  | .countHigh => r.count.toNat < 256
  | .dataHigh => r.value.toNat < 256
  | .waitForSync | .addressLow | .countLow | .dataLow => True

theorem lowByteHeld_iff {r : SpRegs} : LowByteHeld r ↔ (r.state = .addressHigh → r.address.toNat < 256) ∧
    (r.state = .countHigh → r.count.toNat < 256) ∧ (r.state = .dataHigh → r.value.toNat < 256) := by
  unfold LowByteHeld
  cases r.state <;> simp

theorem lowByte_toNat_lt (b : Byte) : (lowByte b).toNat < 256 := (lowByte_toNat b).symm ▸ b.isLt

/-- The resynchronisation step writes none of the three registers, and the state it forces expects a low byte. -/
theorem LowByteHeld.resync {r : SpRegs} (h : LowByteHeld r) (b : Byte) : LowByteHeld (resync b r) := by
  rcases resync_cases b r with ⟨-, -, e⟩ | ⟨-, -, e⟩ | ⟨-, e⟩
  · rw [e]; trivial
  · rw [e]; exact h
  · rw [e]; exact h

/-- SP expects a high byte only after the operation that loads the low byte, whatever the registers held before. -/
theorem spByte_lowByteHeld (b : Byte) (s : State) : LowByteHeld (spByte b s).sp := by
  cases hst : s.sp.state
  case waitForSync =>
    rw [spByte_eq hst rfl]
    have hidle : LowByteHeld s.sp := by rw [LowByteHeld, hst]; trivial
    exact hidle.resync b
  case addressHigh =>
    rw [spByte_eq hst rfl]
    refine LowByteHeld.resync ?_ b
    by_cases hend : addHighByte s.sp.address b = 0x5555
    · rw [if_pos hend]; trivial
    · rw [if_neg hend]; trivial
  case addressLow | countLow | dataLow =>
    rw [spByte_eq hst rfl]
    refine LowByteHeld.resync ?_ b
    exact lowByte_toNat_lt b
  case countHigh =>
    rw [spByte_eq hst rfl]
    refine LowByteHeld.resync ?_ b
    trivial
  case dataHigh =>
    have hbyte : spByte b s = spDath b s := spByte_eq hst rfl
    by_cases hend : s.sp.count - 1 = 0
    · rw [hbyte, spDath_last b hend]
      refine LowByteHeld.resync ?_ b
      trivial
    · rw [hbyte, spDath_more b hend]
      refine LowByteHeld.resync ?_ b
      trivial

theorem perform_lowByteHeld {ev : Event} {s t : State} (hs : LowByteHeld s.sp) (h : perform ev s = .next t) :
    LowByteHeld t.sp := by
  by_cases hreset : ev = .host .reset
  · subst hreset; cases h; trivial
  · by_cases hspb : ∃ b, ev = .ingress (.spb b)
    · obtain ⟨b, rfl⟩ := hspb
      cases (perform_spb b s).symm.trans h
      exact spByte_lowByteHeld b s
    · obtain ⟨hsp, -⟩ := perform_keeps_sp hreset (not_exists.mp hspb) h
      rwa [hsp]

/-- Settles O49. -/
theorem highByteNeverCarries : Obligations.HighByteNeverCarries := by
  intro s t hs hstep
  rw [← lowByteHeld_iff] at hs ⊢
  rcases step_cases hstep with ⟨ev, e, -, hperform⟩ | ⟨e, -, rfl⟩
  · exact perform_lowByteHeld (s := setEnv e s) hs hperform
  · exact hs

end Sys2Proof.Machine

/-! PROOFS. Where faults come from (44_operation_classes.md R264). -/

namespace Sys2Proof.Machine

section Faults

variable {s t : State}

theorem sendChunk_fault (s : State) : (sendChunk s).bc.fault = s.bc.fault := by rw [sendChunk_eq]

theorem flushIfDue_fault (s : State) : (flushIfDue s).bc.fault = s.bc.fault := by
  rcases flushIfDue_cases s with ⟨-, -, e⟩ | ⟨-, e⟩
  · rw [e, sendChunk_fault]
  · rw [e]

theorem BusBody.keeps_fault {b : Byte} {f : State → State} (hf : BusBody b f) (s : State) :
    (f s).bc.fault = s.bc.fault := by
  cases hf with
  | grant => exact flushIfDue_fault (setReady true s)
  | withdraw => rfl
  | announce => rfl
  | size =>
    unfold messageSize
    split <;> rfl
  | data =>
    simp only [messageData]
    split <;> rfl

theorem ingest_fault_of_fits {bs : List Byte} (hfits : s.rbQ.length + bs.length ≤ s.params.capacity) :
    (ingest bs s).bc.fault = s.bc.fault := by
  rcases ingest_cases bs s with ⟨hover, -⟩ | ⟨-, -, e⟩ | ⟨-, -, -, e⟩
  · omega
  · rw [e, setRbQ_bc]
  · rw [e, sendChunk_fault, setRbQ_bc]

theorem perform_drx_keeps_fault {b : Byte} (h : perform (.device (.drx b)) s = .next t) :
    t.bc.fault = s.bc.fault := by
  by_cases hrun : s.bc.fault = .none
  · rw [perform_drx b s hrun] at h
    rcases exec_selectDev_cases s.params s.bc.rxState b with hidle | ⟨f, hf, hexec⟩
    · rw [hidle] at h; cases h; rfl
    · rw [hexec, whileRunning_of_running hrun] at h; cases h; exact hf.keeps_fault s
  · rw [perform_drx_faulted b s hrun] at h
    cases h
    rfl

/-- A burst that fits raises nothing, and a burst of no byte does nothing. -/
theorem perform_ing_keeps_running {bs : List Byte} (hrun : s.bc.fault = .none)
    (hfits : bs ≠ [] → s.rbQ.length + bs.length ≤ s.params.capacity)
    (h : perform (.ingress (.ing bs)) s = .next t) : t.bc.fault = .none := by
  by_cases hbs : bs = []
  · subst hbs; cases h; exact hrun
  · rw [perform_ing, (bcIng_performs hbs).running hrun] at h
    cases h
    exact (ingest_fault_of_fits (hfits hbs)).trans hrun

theorem perform_ing_of_overflow {bs : List Byte} (hrun : s.bc.fault = .none) (hbs : bs ≠ [])
    (hover : s.params.capacity < s.rbQ.length + bs.length) :
    perform (.ingress (.ing bs)) s = .next (raiseFault .overflow s) := by
  rw [perform_ing, (bcIng_performs hbs).running hrun, ingest_of_overflow hover]

/-- The event is a burst of some byte, longer than the free space. -/
def IsOverflowingBurst (ev : Event) (s : State) : Prop :=
  ∃ bs : List Byte, bs ≠ [] ∧ ev = .ingress (.ing bs) ∧ s.params.capacity < s.rbQ.length + bs.length

/-- Port by port: only `ing` and `dev_rx` reach the fault, and `RESET` clears it. -/
theorem perform_keeps_running {ev : Event} (hrun : s.bc.fault = .none) (hev : ¬ IsOverflowingBurst ev s)
    (h : perform ev s = .next t) : t.bc.fault = .none := by
  match ev with
  | .ingress (.spb _) => rw [perform_spb_writes h]; exact hrun
  | .ingress (.ing bs) =>
    exact perform_ing_keeps_running hrun (fun hbs => Nat.not_lt.mp fun hover => hev ⟨bs, hbs, rfl, hover⟩) h
  | .device (.drx _) => rw [perform_drx_keeps_fault h]; exact hrun
  | .device (.prx _) => rw [perform_prx_writes h]; exact hrun
  | .host .reset => cases h; rfl
  | .host (.query _) => rw [perform_query_writes h]; exact hrun

theorem perform_overflows {ev : Event} (hrun : s.bc.fault = .none) (hev : IsOverflowingBurst ev s)
    (h : perform ev s = .next t) : t.bc.fault = .overflow := by
  obtain ⟨bs, hbs, rfl, hover⟩ := hev
  rw [perform_ing_of_overflow hrun hbs hover] at h
  cases h
  rfl

end Faults

/-- Settles O51: an event is an overflowing burst and raises `Overflow`, or it is none and BC stays unfaulted. -/
theorem faultsComeFromIngressOnly : Obligations.FaultsComeFromIngressOnly := by
  intro ev s t hrun h
  change t.bc.fault ≠ .underflow ∧ (t.bc.fault = .overflow ↔ IsOverflowingBurst ev s)
  by_cases hev : IsOverflowingBurst ev s
  · rw [perform_overflows hrun hev h]
    exact ⟨nofun, fun _ => hev, fun _ => rfl⟩
  · rw [perform_keeps_running hrun hev h]
    exact ⟨nofun, nofun, fun hburst => absurd hburst hev⟩

end Sys2Proof.Machine

/-! PROOFS. Every step keeps the invariants of 10_state.md R53. They are taken apart by unit, and the clauses about a
message and about a packet are sorted by the state in which they bind. -/

namespace Sys2Proof.Machine

/-! ### The invariants, unit by unit -/

/-- Items 1 and 2 of R53: the queue and the credit. -/
structure QueueInv (s : State) : Prop where
  fits : s.rbQ.length ≤ s.params.capacity
  credit_means_empty : s.bc.fault = .none → s.bc.ready = true → s.rbQ = []

/-- Item 3 of R53 and R34, state by state. -/
def MessageInv (r : BcRegs) : Prop :=
  match r.rxState with
  | .awaitingNotification | .messageSizeExpected => r.msgRemaining = 0 ∧ r.msgBuf = []
  | .messageDataExpected => r.msgRemaining ≠ 0 ∧ r.msgBuf.length + r.msgRemaining.toNat ≤ 255

/-- PP's registers between packets (item 5 of R53). -/
def PacketIdle (r : PpRegs) : Prop :=
  r.type = 0 ∧ r.address = 0 ∧ r.size = 0 ∧ r.remaining = 0 ∧ r.sum = 0 ∧ r.buf = []

/-- The size was accepted, and the sum covers what was received (20_memory.md R70; item 7 of R53). -/
def SizeAccepted (maxSize : Nat) (r : PpRegs) : Prop :=
  r.size.toNat ≤ maxSize ∧
    r.sum = BitVec.ofNat 8 ((typeAddressByte r).toNat + r.size.toNat + byteSum r.buf)

/-- Items 5 to 7 of R53, R70 and R193, state by state. -/
def PacketInv (maxSize : Nat) (r : PpRegs) : Prop :=
  match r.state with
  | .start | .leadIn | .address => PacketIdle r
  | .size => r.remaining = 0 ∧ r.buf = [] ∧ r.sum = typeAddressByte r
  | .data => r.remaining ≠ 0 ∧ r.buf.length + r.remaining.toNat = r.size.toNat ∧ SizeAccepted maxSize r
  | .checksum => r.remaining = 0 ∧ r.buf.length = r.size.toNat ∧ SizeAccepted maxSize r

theorem messageInv_iff {r : BcRegs} : MessageInv r ↔
    (r.rxState = .messageDataExpected ↔ r.msgRemaining ≠ 0) ∧
    (r.rxState ≠ .messageDataExpected → r.msgBuf = []) ∧
    r.msgBuf.length + r.msgRemaining.toNat ≤ 255 := by
  unfold MessageInv
  cases r.rxState with
  | messageDataExpected => simp
  | awaitingNotification | messageSizeExpected =>
    refine ⟨fun ⟨hleft, hbuf⟩ => by simp [hleft, hbuf], fun ⟨hleft, hbuf, _⟩ => ⟨?_, hbuf nofun⟩⟩
    simpa using hleft

theorem packetInv_iff {maxSize : Nat} {r : PpRegs} : PacketInv maxSize r ↔
    (r.state = .start ∨ r.state = .leadIn ∨ r.state = .address → PacketIdle r) ∧
    (r.state = .data ↔ r.remaining ≠ 0) ∧
    (r.state = .data → r.buf.length + r.remaining.toNat = r.size.toNat) ∧
    (r.state = .checksum → r.buf.length = r.size.toNat) ∧
    (r.state = .size → r.buf = []) ∧
    (r.state = .size → r.sum = typeAddressByte r) ∧
    (r.state = .data ∨ r.state = .checksum → SizeAccepted maxSize r) := by
  unfold PacketInv
  cases r.state with
  | start | leadIn | address =>
    refine ⟨fun hidle => ?_, fun ⟨hidle, _⟩ => hidle (by simp)⟩
    obtain ⟨-, -, -, hleft, -, -⟩ := id hidle
    simp [hidle, hleft]
  | size | data | checksum => simp

theorem inv_iff {s : State} :
    Inv s ↔ QueueInv s ∧ MessageInv s.bc ∧ PacketInv s.params.ppMaxSize s.pp := by
  rw [messageInv_iff, packetInv_iff]
  constructor
  · intro h
    exact ⟨⟨h.queue_fits, h.credit_means_empty⟩, ⟨h.message_data_iff, h.message_buffer_empty, h.message_fits⟩,
      h.packet_idle, h.packet_data_iff, h.packet_progress, h.packet_complete, h.packet_size_empty, h.sum_before_size,
      fun hst => ⟨h.packet_fits hst, h.sum_after_size hst⟩⟩
  · rintro ⟨⟨hq, hcredit⟩, ⟨hmsg, hbuf, hfits⟩, hidle, hdata, hprogress, hcomplete, hempty, hseed, haccepted⟩
    exact ⟨hq, hcredit, hmsg, hbuf, hfits, Nat.le_of_lt_succ s.sp.syncRun.isLt, hidle, hdata, hprogress, hcomplete,
      hempty, fun hst => (haccepted hst).1, hseed, fun hst => (haccepted hst).2⟩

theorem inv_of_reset_registers {s : State} (hq : s.rbQ = []) (hbc : s.bc = BcRegs.reset) (hpp : s.pp = PpRegs.reset) :
    Inv s := by
  rw [inv_iff, hbc, hpp]
  exact ⟨⟨by simp [hq], fun _ _ => hq⟩, ⟨rfl, rfl⟩, rfl, rfl, rfl, rfl, rfl, rfl⟩

/-- Settles O48. -/
theorem resetMeetsTheInvariants : Obligations.ResetMeetsTheInvariants := by
  refine ⟨fun p => inv_of_reset_registers rfl rfl rfl, fun s t h => ?_⟩
  cases h
  exact inv_of_reset_registers rfl rfl rfl

/-! ### The queue and the credit -/

section Queue

variable {s : State}

/-- After an attempted flush either no credit is held or nothing is queued. -/
theorem flushIfDue_queueInv (hfits : s.rbQ.length ≤ s.params.capacity) : QueueInv (flushIfDue s) := by
  rcases flushIfDue_cases s with ⟨-, -, e⟩ | ⟨hidle, e⟩
  · rw [e, sendChunk_eq]
    refine ⟨?_, fun _ => nofun⟩
    exact ((s.rbQ.drop_sublist _).length_le).trans hfits
  · rw [e]
    refine ⟨hfits, fun _ hready => hidle.resolve_left ?_⟩
    simp [hready]

theorem ingest_queueInv (bs : List Byte) (hs : QueueInv s) : QueueInv (ingest bs s) := by
  rw [ingest_eq_ite]
  split_ifs with hover
  · exact ⟨hs.fits, nofun⟩
  · refine flushIfDue_queueInv ?_
    simpa [overflows] using hover

theorem QueueInv.setReady_false (hs : QueueInv s) : QueueInv (setReady false s) := ⟨hs.fits, fun _ => nofun⟩

end Queue

/-! ### A message in progress -/

section Message

variable {s : State}

theorem MessageInv.between {r : BcRegs} (h : MessageInv r) (hst : r.rxState ≠ .messageDataExpected) :
    r.msgRemaining = 0 ∧ r.msgBuf = [] := by
  unfold MessageInv at h
  split at h
  · exact h
  · exact h
  · exact absurd ‹_› hst

theorem MessageInv.within {r : BcRegs} (h : MessageInv r) (hst : r.rxState = .messageDataExpected) :
    r.msgRemaining ≠ 0 ∧ r.msgBuf.length + r.msgRemaining.toNat ≤ 255 := by
  rwa [MessageInv, hst] at h

theorem flushIfDue_messageInv (hs : MessageInv s.bc) : MessageInv (flushIfDue s).bc := by
  rcases flushIfDue_cases s with ⟨-, -, e⟩ | ⟨-, e⟩
  · rw [e, sendChunk_eq]; exact hs
  · rwa [e]

theorem messageSize_messageInv (b : Byte) (hs : MessageInv s.bc) (hst : s.bc.rxState = .messageSizeExpected) :
    MessageInv (messageSize b s).bc := by
  unfold messageSize
  split_ifs with hb
  · exact hs.between (by simp [hst])
  · exact ⟨hb, by simpa using Nat.le_of_lt_succ b.isLt⟩

/-- A byte that is not the last moves one of the bytes to come into the buffer. -/
theorem messageData_messageInv (b : Byte) (hs : MessageInv s.bc) (hst : s.bc.rxState = .messageDataExpected) :
    MessageInv (messageData b s).bc := by
  obtain ⟨hleft, hfits⟩ := hs.within hst
  by_cases hlast : s.bc.msgRemaining - 1 = 0
  · rw [messageData_of_last b hlast]
    exact ⟨hlast, rfl⟩
  · have hpos : s.bc.msgRemaining.toNat ≠ 0 := fun h => hleft (BitVec.eq_of_toNat_eq h)
    have hdec : (s.bc.msgRemaining - 1).toNat = (s.bc.msgRemaining.toNat + 255) % 256 := byte_sub_one_toNat _
    rw [messageData_of_more b hlast, setBc_bc, MessageInv, hst]
    refine ⟨hlast, ?_⟩
    rw [hdec, List.length_append, List.length_singleton]
    omega

end Message

/-! ### The events of BC -/

section Bus

variable {s t : State}

theorem perform_ing_queueInv {bs : List Byte} (hs : QueueInv s) (h : perform (.ingress (.ing bs)) s = .next t) :
    QueueInv t := by
  by_cases hbs : bs = []
  · subst hbs; cases h; exact hs
  · rw [perform_ing, bcIng_performs hbs] at h
    cases h
    rcases whileRunning_eq_or (ingest bs) s with e | e
    · rw [e]; exact ingest_queueInv bs hs
    · rwa [e]

/-- The operation that a running BC selects, state by state. -/
theorem exec_selectDev_keeps_inv (b : Byte) (hrun : s.bc.fault = .none) (hq : QueueInv s) (hm : MessageInv s.bc) :
    ∃ t, exec (selectDev s.params s.bc.rxState b) s = .next t ∧ QueueInv t ∧ MessageInv t.bc := by
  cases hst : s.bc.rxState with
  | awaitingNotification =>
    simp only [selectDev, selectStatus]
    split_ifs
    · exact ⟨_, bcRdy_performs.running hrun, flushIfDue_queueInv hq.fits,
        flushIfDue_messageInv (s := setReady true s) hm⟩
    · exact ⟨_, bcFull_performs.running hrun, hq.setReady_false, hm⟩
    · exact ⟨_, rfl, hq, hm⟩
    · exact ⟨_, bcErr_performs.running hrun, hq.setReady_false, hm⟩
    · exact ⟨_, bcMsg_performs.running hrun, ⟨hq.fits, hq.credit_means_empty⟩, hm.between (by simp [hst])⟩
    · exact ⟨_, rfl, hq, hm⟩
  | messageSizeExpected =>
    refine ⟨_, (bcMsize_performs b).running hrun, ?_, messageSize_messageInv b hm hst⟩
    unfold messageSize
    split_ifs <;> exact ⟨hq.fits, hq.credit_means_empty⟩
  | messageDataExpected =>
    refine ⟨_, (bcMdata_performs b).running hrun, ?_, messageData_messageInv b hm hst⟩
    simp only [messageData]
    split_ifs <;> exact ⟨hq.fits, hq.credit_means_empty⟩

theorem perform_drx_keeps_inv {b : Byte} (hq : QueueInv s) (hm : MessageInv s.bc)
    (h : perform (.device (.drx b)) s = .next t) : QueueInv t ∧ MessageInv t.bc := by
  by_cases hrun : s.bc.fault = .none
  · obtain ⟨u, hu, hinv⟩ := exec_selectDev_keeps_inv b hrun hq hm
    rw [perform_drx b s hrun, hu] at h
    cases h
    exact hinv
  · rw [perform_drx_faulted b s hrun] at h
    cases h
    exact ⟨hq, hm⟩

end Bus

/-! ### A packet in progress -/

section Packet

variable {maxSize : Nat} {r : PpRegs}

theorem packetInv_ppClear (r : PpRegs) : PacketInv maxSize (ppClear r) := ⟨rfl, rfl, rfl, rfl, rfl, rfl⟩

/-- The type and the address hold the whole byte (30_encoding.md R104). -/
theorem packetType_append_packetAddress (b : Byte) : packetType b ++ packetAddress b = b :=
  BitVec.eq_of_toNat_eq (by
    have hlow : b.toNat % 32 < 2 ^ 5 := Nat.mod_lt _ (by decide)
    rw [BitVec.toNat_append, packetType_toNat, packetAddress_toNat, ← Nat.shiftLeft_add_eq_or_of_lt hlow,
      Nat.shiftLeft_eq]
    omega)

/-- The sum as PP accumulates it. -/
theorem sizeAccepted_iff : SizeAccepted maxSize r ↔
    r.size.toNat ≤ maxSize ∧ r.sum = typeAddressByte r + r.size + BitVec.ofNat 8 (byteSum r.buf) := by
  simp [SizeAccepted, BitVec.ofNat_add]

theorem acceptSize_packetInv {b : Byte} (hr : PacketInv maxSize r) (hst : r.state = .size) (hb : b.toNat ≤ maxSize) :
    PacketInv maxSize (acceptSize b r) := by
  obtain ⟨hleft, hbuf, hsum⟩ : r.remaining = 0 ∧ r.buf = [] ∧ r.sum = typeAddressByte r := by
    rwa [PacketInv, hst] at hr
  have haccepted : ∀ st left,
      SizeAccepted maxSize { r with state := st, size := b, sum := addToSum r.sum b, remaining := left } := by
    intro st left
    rw [sizeAccepted_iff]
    exact ⟨hb, by simp [hbuf, hsum, byteSum, addToSum, typeAddressByte]⟩
  unfold acceptSize
  split_ifs with hzero
  · refine ⟨hleft, ?_, haccepted _ r.remaining⟩
    simp [hbuf, hzero]
  · refine ⟨hzero, ?_, haccepted _ _⟩
    simp [hbuf]

/-- A payload byte that is not the last moves one of the bytes to come into the buffer. -/
theorem payloadByte_packetInv (b : Byte) (hr : PacketInv maxSize r) (hst : r.state = .data) :
    PacketInv maxSize (payloadByte b r) := by
  obtain ⟨hleft, hprogress, haccepted⟩ : r.remaining ≠ 0 ∧ r.buf.length + r.remaining.toNat = r.size.toNat ∧
      SizeAccepted maxSize r := by rwa [PacketInv, hst] at hr
  have hpos : r.remaining.toNat ≠ 0 := fun h => hleft (BitVec.eq_of_toNat_eq h)
  have hdec : (r.remaining - 1).toNat = (r.remaining.toNat + 255) % 256 := byte_sub_one_toNat _
  have hlen : (r.buf ++ [b]).length + (r.remaining - 1).toNat = r.size.toNat := by
    rw [hdec, List.length_append, List.length_singleton]
    omega
  have haccepted' : SizeAccepted maxSize (payloadByte b r) := by
    obtain ⟨hsize, hsum⟩ := sizeAccepted_iff.mp haccepted
    refine sizeAccepted_iff.mpr ⟨hsize, ?_⟩
    simp [payloadByte, addToSum, hsum, byteSum_append, byteSum, typeAddressByte, BitVec.ofNat_add, BitVec.add_assoc]
  by_cases hlast : r.remaining - 1 = 0
  · have hst' : (payloadByte b r).state = .checksum := if_pos hlast
    rw [hlast] at hlen
    rw [PacketInv, hst']
    exact ⟨hlast, hlen, haccepted'⟩
  · have hst' : (payloadByte b r).state = .data := (if_neg hlast).trans hst
    rw [PacketInv, hst']
    exact ⟨hlast, hlen, haccepted'⟩

/-- The operation that PP selects, state by state. -/
theorem perform_prx_packetInv {b : Byte} {s t : State} (hs : PacketInv s.params.ppMaxSize s.pp)
    (h : perform (.device (.prx b)) s = .next t) : PacketInv s.params.ppMaxSize t.pp := by
  rw [perform_prx] at h
  cases hst : s.pp.state <;> rw [hst] at h
  case start =>
    cases h
    split_ifs
    · rwa [PacketInv, hst] at hs
    · exact hs
  case leadIn =>
    cases h
    split_ifs
    · rwa [PacketInv, hst] at hs
    · exact packetInv_ppClear _
  case address =>
    cases h
    obtain ⟨-, -, -, hleft, -, -⟩ : PacketIdle s.pp := by rwa [PacketInv, hst] at hs
    exact ⟨hleft, rfl, (packetType_append_packetAddress b).symm⟩
  case size =>
    by_cases hfits : b.toNat ≤ s.params.ppMaxSize
    · cases (exec_ppSize_of_fits hfits).symm.trans h
      exact acceptSize_packetInv hs hst hfits
    · cases (exec_ppSize_of_oversize (not_le.mp hfits)).symm.trans h
      exact packetInv_ppClear _
  case data =>
    cases h
    exact payloadByte_packetInv b hs hst
  case checksum =>
    cases h
    split_ifs <;> exact packetInv_ppClear _

end Packet

/-! ### The step -/

section Step

variable {s t : State}

/-- Each port reaches the registers of one unit, so the invariants of the others are kept with their registers. -/
theorem perform_keeps_inv {ev : Event} (hs : Inv s) (h : perform ev s = .next t) : Inv t := by
  obtain ⟨hq, hm, hp⟩ := inv_iff.mp hs
  rw [inv_iff]
  match ev with
  | .ingress (.spb _) =>
    rw [perform_spb_writes h]
    exact ⟨⟨hq.fits, hq.credit_means_empty⟩, hm, hp⟩
  | .ingress (.ing _) =>
    refine ⟨perform_ing_queueInv hq h, ?_⟩
    rw [perform_ing_writes h]
    exact ⟨hm, hp⟩
  | .device (.drx _) =>
    obtain ⟨hq', hm'⟩ := perform_drx_keeps_inv hq hm h
    refine ⟨hq', hm', ?_⟩
    rw [perform_drx_writes h]
    exact hp
  | .device (.prx _) =>
    have hp' : PacketInv s.params.ppMaxSize t.pp := perform_prx_packetInv hp h
    rw [perform_prx_writes h]
    exact ⟨⟨hq.fits, hq.credit_means_empty⟩, hm, hp'⟩
  | .host .reset =>
    cases h
    exact inv_iff.mp (inv_of_reset_registers rfl rfl rfl)
  | .host (.query _) =>
    rw [perform_query_writes h]
    exact ⟨⟨hq.fits, hq.credit_means_empty⟩, hm, hp⟩

/-- No event but `RESET` touches the queue of a faulted BC. -/
theorem perform_keeps_faulted_queue {ev : Event} (hfault : s.bc.fault ≠ .none) (hreset : ev ≠ .host .reset)
    (h : perform ev s = .next t) : t.rbQ = s.rbQ := by
  match ev with
  | .ingress (.spb _) => rw [perform_spb_writes h]
  | .ingress (.ing bs) => rw [perform_ing_faulted bs hfault] at h; cases h; rfl
  | .device (.drx b) => rw [perform_drx_faulted b s hfault] at h; cases h; rfl
  | .device (.prx _) => rw [perform_prx_writes h]
  | .host .reset => exact absurd rfl hreset
  | .host (.query _) => rw [perform_query_writes h]

theorem inv_setEnv (hs : Inv s) (e : Env) : Inv (setEnv e s) := by
  obtain ⟨hq, hm, hp⟩ := inv_iff.mp hs
  exact inv_iff.mpr ⟨⟨hq.fits, hq.credit_means_empty⟩, hm, hp⟩

end Step

/-- Settles O47: a step performs the event it takes, or lets a turn pass and so writes the environment only. -/
theorem stepKeepsTheInvariants : Obligations.StepKeepsTheInvariants := by
  intro s t hs hstep
  rcases step_cases hstep with ⟨ev, e, htake, hperform⟩ | ⟨e, -, rfl⟩
  · refine ⟨perform_keeps_inv (inv_setEnv hs e) hperform, fun hfault hreset => ?_⟩
    have hev : ev ≠ .host .reset := by
      rintro rfl
      exact hreset (by rw [htake])
    exact ⟨perform_keeps_faulted_queue (s := setEnv e s) hfault hev hperform,
      perform_keeps_faulted_bc (s := setEnv e s) hfault hev hperform⟩
  · exact ⟨inv_setEnv hs e, fun _ _ => ⟨rfl, rfl⟩⟩

end Sys2Proof.Machine

/-! PROOFS. SP on a record without a sync marker in it (30_encoding.md R91; 40_stream_parser.md R132 to R137, R141). -/

namespace Sys2Proof.Machine

/-! ### Bytes that are no marker -/

/-- A byte that, after a run of `run` bytes `0x55`, only sets the run to `n` and does not resynchronise. -/
def OnlyCounts (b : Byte) (run n : BitVec 2) : Prop :=
  ∀ r : SpRegs, r.syncRun = run → resync b r = { r with syncRun := n }

/-- A byte that is not the fourth `0x55` of a run (40_stream_parser.md R138). -/
theorem onlyCounts_of_noMarker {run : BitVec 2} {b : Byte} {bs : List Byte}
    (h : noMarker run.toNat (b :: bs) = true) : ∃ n, OnlyCounts b run n ∧ noMarker n.toNat bs = true := by
  rw [noMarker] at h
  by_cases hb : b = 0x55
  · rw [if_pos hb, Bool.and_eq_true, decide_eq_true_eq] at h
    obtain ⟨hlt, hrest⟩ := h
    have hrun : run ≠ 3 := by
      rintro rfl
      exact absurd hlt (by decide)
    refine ⟨run + 1, ?_, by rwa [syncRun_succ_toNat hrun]⟩
    rintro r rfl
    rw [hb, resync_marker hrun]
  · rw [if_neg hb] at h
    exact ⟨0, fun r _ => resync_other hb r, h⟩

section Bytes

variable {s : State} {b : Byte} {n : BitVec 2} (hb : OnlyCounts b s.sp.syncRun n)
include hb

theorem spByte_addressLow (hst : s.sp.state = .addressLow) :
    spByte b s = setSp { s.sp with state := .addressHigh, address := lowByte b, syncRun := n } s :=
  (spByte_eq hst rfl).trans (congrArg (setSp · s) (hb _ rfl))

theorem spByte_addressHigh (hst : s.sp.state = .addressHigh) (ha : addHighByte s.sp.address b ≠ 0x5555) :
    spByte b s = setSp { s.sp with state := .countLow, address := addHighByte s.sp.address b, syncRun := n } s := by
  have hcount : spAddrh b s = setSp (resync b { s.sp with
      address := addHighByte s.sp.address b, state := .countLow }) s :=
    congrArg (fun st => setSp (resync b { s.sp with address := addHighByte s.sp.address b, state := st }) s) (if_neg ha)
  exact (spByte_eq hst rfl).trans (hcount.trans (congrArg (setSp · s) (hb _ rfl)))

theorem spByte_countLow (hst : s.sp.state = .countLow) :
    spByte b s = setSp { s.sp with state := .countHigh, count := lowByte b, syncRun := n } s :=
  (spByte_eq hst rfl).trans (congrArg (setSp · s) (hb _ rfl))

theorem spByte_countHigh (hst : s.sp.state = .countHigh) :
    spByte b s = setSp { s.sp with state := .dataLow, count := addHighByte s.sp.count b, syncRun := n } s :=
  (spByte_eq hst rfl).trans (congrArg (setSp · s) (hb _ rfl))

theorem spByte_dataLow (hst : s.sp.state = .dataLow) : spByte b s =
    setSp { s.sp with state := .dataHigh, value := lowByte b, count := s.sp.count - 1, syncRun := n } s :=
  (spByte_eq hst rfl).trans (congrArg (setSp · s) (hb _ rfl))

theorem spByte_dataHigh_last (hst : s.sp.state = .dataHigh) (hend : s.sp.count - 1 = 0) : spByte b s =
    spOutcome { s.sp with
        state := .addressLow, value := addHighByte s.sp.value b, count := s.sp.count - 1, syncRun := n }
      [if s.sp.address = 0xFFFE then .sync else .data s.sp.address (addHighByte s.sp.value b)] s :=
  (spByte_eq hst rfl).trans ((spDath_last b hend).trans (congrArg (fun r => setSp r (emitSp _ s)) (hb _ rfl)))

theorem spByte_dataHigh_more (hst : s.sp.state = .dataHigh) (hmore : s.sp.count - 1 ≠ 0) : spByte b s =
    spOutcome { s.sp with
        state := .dataLow, value := addHighByte s.sp.value b, count := s.sp.count - 1,
        address := s.sp.address + 2, syncRun := n }
      [.data s.sp.address (addHighByte s.sp.value b)] s :=
  (spByte_eq hst rfl).trans ((spDath_more b hmore).trans (congrArg (fun r => setSp r (emitSp _ s)) (hb _ rfl)))

end Bytes

/-! ### The fields of a record -/

/-- A field sent low byte first is assembled (20_memory.md R61). -/
theorem addHighByte_lowByte (h : Half) : addHighByte (lowByte (h.extractLsb' 0 8)) (h.extractLsb' 8 8) = h := by
  apply BitVec.eq_of_toNat_eq
  rw [addHighByte_toNat, lowByte_toNat, BitVec.extractLsb'_toNat, BitVec.extractLsb'_toNat,
    Nat.shiftRight_eq_div_pow, Nat.shiftRight_eq_div_pow]
  omega

section Fields

variable {s : State} {lo hi : Byte} {bs : List Byte}

theorem spBytes_address {a : Half} (hst : s.sp.state = .addressLow) (ha : a ≠ 0x5555)
    (hno : noMarker s.sp.syncRun.toNat (halfBytes a ++ bs) = true) : ∃ n : BitVec 2, noMarker n.toNat bs = true ∧
      spBytes (halfBytes a) s = setSp { s.sp with state := .countLow, address := a, syncRun := n } s := by
  obtain ⟨m, hlow, hno'⟩ := onlyCounts_of_noMarker hno
  obtain ⟨n, hhigh, hrest⟩ := onlyCounts_of_noMarker hno'
  refine ⟨n, hrest, ?_⟩
  rw [halfBytes, spBytes, spBytes, spBytes, spByte_addressLow hlow hst,
    spByte_addressHigh hhigh rfl (by rw [setSp_sp, addHighByte_lowByte]; exact ha), setSp_sp, addHighByte_lowByte]
  rfl

theorem spBytes_count {c : Half} (hst : s.sp.state = .countLow)
    (hno : noMarker s.sp.syncRun.toNat (halfBytes c ++ bs) = true) : ∃ n : BitVec 2, noMarker n.toNat bs = true ∧
      spBytes (halfBytes c) s = setSp { s.sp with state := .dataLow, count := c, syncRun := n } s := by
  obtain ⟨m, hlow, hno'⟩ := onlyCounts_of_noMarker hno
  obtain ⟨n, hhigh, hrest⟩ := onlyCounts_of_noMarker hno'
  refine ⟨n, hrest, ?_⟩
  rw [halfBytes, spBytes, spBytes, spBytes, spByte_countLow hlow hst, spByte_countHigh hhigh rfl, setSp_sp,
    addHighByte_lowByte]
  rfl

/-- What precedes the cells of a record. -/
theorem spBytes_header {a c : Half} (hst : s.sp.state = .addressLow) (ha : a ≠ 0x5555)
    (hno : noMarker s.sp.syncRun.toNat (halfBytes a ++ halfBytes c ++ bs) = true) :
    ∃ r, r.state = .dataLow ∧ r.address = a ∧ r.count = c ∧ noMarker r.syncRun.toNat bs = true ∧
      spBytes (halfBytes a ++ halfBytes c) s = setSp r s := by
  rw [List.append_assoc] at hno
  obtain ⟨m, hno', haddress⟩ := spBytes_address hst ha hno
  obtain ⟨n, hrest, hcount⟩ :=
    spBytes_count (s := setSp { s.sp with state := .countLow, address := a, syncRun := m } s) rfl hno'
  refine ⟨⟨.dataLow, a, c, s.sp.value, n⟩, rfl, rfl, rfl, hrest, ?_⟩
  rw [spBytes_append, haddress, hcount]
  rfl

/-- The last cell of a record. -/
theorem spBytes_cell_last (hst : s.sp.state = .dataLow) (hno : noMarker s.sp.syncRun.toNat (lo :: hi :: bs) = true)
    (hend : s.sp.count - 1 - 1 = 0) : ∃ r, r.state = .addressLow ∧
      spBytes [lo, hi] s = spOutcome r
        [if s.sp.address = 0xFFFE then .sync else .data s.sp.address (addHighByte (lowByte lo) hi)] s := by
  obtain ⟨m, hlow, hno'⟩ := onlyCounts_of_noMarker hno
  obtain ⟨n, hhigh, -⟩ := onlyCounts_of_noMarker hno'
  refine ⟨⟨.addressLow, s.sp.address, s.sp.count - 1 - 1, addHighByte (lowByte lo) hi, n⟩, rfl, ?_⟩
  rw [spBytes, spBytes, spBytes, spByte_dataLow hlow hst, spByte_dataHigh_last hhigh rfl hend]
  rfl

/-- A cell that others follow. -/
theorem spBytes_cell_more (hst : s.sp.state = .dataLow) (hno : noMarker s.sp.syncRun.toNat (lo :: hi :: bs) = true)
    (hmore : s.sp.count - 1 - 1 ≠ 0) : ∃ r, r.state = .dataLow ∧ r.address = s.sp.address + 2 ∧
      r.count = s.sp.count - 1 - 1 ∧ noMarker r.syncRun.toNat bs = true ∧
      spBytes [lo, hi] s = spOutcome r [.data s.sp.address (addHighByte (lowByte lo) hi)] s := by
  obtain ⟨m, hlow, hno'⟩ := onlyCounts_of_noMarker hno
  obtain ⟨n, hhigh, hrest⟩ := onlyCounts_of_noMarker hno'
  refine ⟨⟨.dataLow, s.sp.address + 2, s.sp.count - 1 - 1, addHighByte (lowByte lo) hi, n⟩, rfl, rfl, rfl, hrest, ?_⟩
  rw [spBytes, spBytes, spBytes, spByte_dataLow hlow hst, spByte_dataHigh_more hhigh rfl hmore]
  rfl

end Fields

/-! ### Records -/

/-- A count of bytes goes down by one cell, modulo 65536. -/
theorem half_sub_cell {c : Half} {n : Nat} (h : c = BitVec.ofNat 16 (2 * (n + 1))) :
    c - 1 - 1 = BitVec.ofNat 16 (2 * n) := by
  rw [h, Nat.mul_succ, BitVec.ofNat_add, BitVec.sub_sub]
  exact BitVec.add_sub_cancel _ _

/-- The cells of a record, by induction on them: the count reaches 0 with the last. -/
theorem spBytes_cells (v : Half) (vs : List Half) {s : State} (hst : s.sp.state = .dataLow)
    (hcount : s.sp.count = BitVec.ofNat 16 (2 * (v :: vs).length)) (hlen : (v :: vs).length ≤ 32768)
    (hno : noMarker s.sp.syncRun.toNat ((v :: vs).flatMap halfBytes) = true) : ∃ r, r.state = .addressLow ∧
      spBytes ((v :: vs).flatMap halfBytes) s = spOutcome r (recordEvents s.sp.address (v :: vs)) s := by
  induction vs generalizing v s with
  | nil =>
    obtain ⟨r, hr, hcell⟩ := spBytes_cell_last hst hno (half_sub_cell hcount)
    rw [addHighByte_lowByte] at hcell
    exact ⟨r, hr, hcell⟩
  | cons w vs ih =>
    have hmore : s.sp.count - 1 - 1 ≠ 0 := by
      rw [half_sub_cell hcount]
      intro hzero
      have hnat : 2 * (vs.length + 1) % 65536 = 0 := congrArg BitVec.toNat hzero
      simp only [List.length_cons] at hlen
      omega
    obtain ⟨r, hr, haddr, hrcount, hrest, hcell⟩ := spBytes_cell_more hst hno hmore
    rw [addHighByte_lowByte] at hcell
    obtain ⟨r', hr', hcells⟩ := ih w (s := spOutcome r [.data s.sp.address v] s) hr
      (hrcount.trans (half_sub_cell hcount)) (Nat.le_of_succ_le hlen) hrest
    refine ⟨r', hr', ?_⟩
    calc spBytes ((v :: w :: vs).flatMap halfBytes) s
        = spBytes ((w :: vs).flatMap halfBytes) (spBytes (halfBytes v) s) := spBytes_append (halfBytes v) _ s
      _ = spOutcome r' (recordEvents (s.sp.address + 2) (w :: vs)) (spOutcome r [.data s.sp.address v] s) := by
        rw [halfBytes, hcell, hcells, spOutcome_sp, haddr]
      _ = spOutcome r' (recordEvents s.sp.address (v :: w :: vs)) s := spOutcome_spOutcome ..

/-- Settles O33: the address, the count, then the cells. -/
theorem recordIsDecoded : Obligations.RecordIsDecoded := by
  intro a cells s hst ha hcells hlen hno
  obtain ⟨v, vs, rfl⟩ := List.exists_cons_of_ne_nil hcells
  refine ⟨_, runEvents_onSpIn _ s, ?_⟩
  rw [recordBytes] at hno ⊢
  obtain ⟨r, hr, haddr, hcount, hcellsno, hheader⟩ := spBytes_header hst ha hno
  obtain ⟨r', hr', hrecord⟩ := spBytes_cells v vs (s := setSp r s) hr hcount hlen hcellsno
  rw [spBytes_append, hheader, hrecord, setSp_sp, haddr]
  exact ⟨rfl, hr', rfl, rfl, rfl, rfl⟩

/-- An odd count stays odd over a cell, so it does not reach 0, by induction on the cells. -/
theorem spBytes_of_odd_count (cells : List (Byte × Byte)) {s : State} (hst : s.sp.state = .dataLow)
    (hodd : s.sp.count.toNat % 2 = 1)
    (hno : noMarker s.sp.syncRun.toNat (cells.flatMap fun c => [c.1, c.2]) = true) :
    ∃ (r : SpRegs) (evs : List SpEvent), r.state = .dataLow ∧ r.count.toNat % 2 = 1 ∧ evs.length = cells.length ∧
      .sync ∉ evs ∧ spBytes (cells.flatMap fun c => [c.1, c.2]) s = spOutcome r evs s := by
  induction cells generalizing s with
  | nil => exact ⟨s.sp, [], hst, hodd, rfl, List.not_mem_nil, setSp_eq_spOutcome s.sp s⟩
  | cons cell cells ih =>
    obtain ⟨lo, hi⟩ := cell
    have hleft : (s.sp.count - 1 - 1).toNat % 2 = 1 := by
      rw [half_sub_one_toNat, half_sub_one_toNat]
      omega
    have hmore : s.sp.count - 1 - 1 ≠ 0 := by
      intro hzero
      rw [hzero] at hleft
      exact absurd hleft (by decide)
    obtain ⟨r, hr, -, hrcount, hrest, hcell⟩ := spBytes_cell_more hst hno hmore
    obtain ⟨r', evs, hr', hodd', hevs, hsync, hcells⟩ :=
      ih (s := spOutcome r [.data s.sp.address (addHighByte (lowByte lo) hi)] s) hr (hrcount ▸ hleft) hrest
    refine ⟨r', .data s.sp.address (addHighByte (lowByte lo) hi) :: evs, hr', hodd', by simp [hevs], by simp [hsync],
      ?_⟩
    calc spBytes (((lo, hi) :: cells).flatMap fun c => [c.1, c.2]) s
        = spBytes (cells.flatMap fun c => [c.1, c.2]) (spBytes [lo, hi] s) := spBytes_append [lo, hi] _ s
      _ = spOutcome r' (.data s.sp.address (addHighByte (lowByte lo) hi) :: evs) s := by
        rw [hcell, hcells, spOutcome_spOutcome, List.singleton_append]

/-- Settles O36. -/
theorem oddCountNeverEnds : Obligations.OddCountNeverEnds := by
  intro cells s hst hodd hno
  obtain ⟨r, evs, hr, hrodd, hlen, hsync, hbytes⟩ := spBytes_of_odd_count cells hst hodd hno
  refine ⟨_, evs, runEvents_onSpIn _ s, ?_⟩
  rw [hbytes]
  exact ⟨hr, hrodd, rfl, hlen, hsync⟩

end Sys2Proof.Machine

/-! PROOFS. RB's pop, its queries, and the FIFO law (41_ring_buffer.md R152 to R156). -/

namespace Sys2Proof.Machine

theorem rbPush_performs (b : Byte) : PerformsWhileRunning (.rbPush b) (pushed [b]) := fun _ => rfl

theorem rbPop_performs : PerformsWhileRunning .rbPop popped := fun _ => rfl

theorem rbPushn_performs {bs : List Byte} (hbs : bs ≠ []) : PerformsWhileRunning (.rbPushn bs) (pushed bs) :=
  fun _ => congrArg _ (if_neg (by simpa using hbs))

theorem popped_of_cons {b : Byte} {q : List Byte} {s : State} (hq : s.rbQ = b :: q) :
    popped s = replyRb (.byte b) (setRbQ q s) := by
  rw [popped, rbPop, hq]

theorem popped_of_nil {s : State} (hq : s.rbQ = []) : popped s = raiseFault .underflow s := by
  rw [popped, rbPop, hq]

/-- Settles O11. -/
theorem rbPopTakesTheOldestByte : Obligations.RbPopTakesTheOldestByte := by
  intro s hrun
  refine ⟨fun b q hq => ?_, fun hq => ?_⟩
  · rw [rbPop_performs.running hrun, popped_of_cons hq]; rfl
  · rw [rbPop_performs.running hrun, popped_of_nil hq]; rfl

/-- Settles O12: the queue is empty when its length is 0. -/
theorem rbQueriesArePure : Obligations.RbQueriesArePure := by
  intro s
  have hempty : s.rbQ.isEmpty = decide (s.rbQ.length = 0) := by cases s.rbQ <;> rfl
  rw [← hempty]
  exact ⟨rfl, rfl, rfl⟩

/-- Settles O14. -/
theorem faultedRingBufferDoesNothing : Obligations.FaultedRingBufferDoesNothing := by
  intro b bs s hfault
  refine ⟨(rbPush_performs b).faulted hfault, ?_, rbPop_performs.faulted hfault⟩
  by_cases hbs : bs = []
  · rw [hbs]; rfl
  · exact (rbPushn_performs hbs).faulted hfault

/-! ### First in, first out -/

/-- From `s` to an unfaulted `t`, with the bytes `bs` pushed: RB was not faulted before, and the bytes popped, followed by
the queue, are the queue before followed by `bs`. -/
def FirstInFirstOut (bs : List Byte) (s t : State) : Prop :=
  t.bc.fault = .none → s.bc.fault = .none ∧
    ∃ out : List Byte, t.out.rbReply = s.out.rbReply ++ out.map .byte ∧ out ++ t.rbQ = s.rbQ ++ bs

section Fifo

variable {bs cs : List Byte} {s u t : State}

theorem FirstInFirstOut.refl (s : State) : FirstInFirstOut [] s s := fun h => ⟨h, [], by simp, by simp⟩

theorem FirstInFirstOut.trans (hsu : FirstInFirstOut bs s u) (hut : FirstInFirstOut cs u t) :
    FirstInFirstOut (bs ++ cs) s t := by
  intro ht
  obtain ⟨hu, out₂, hreply₂, hbytes₂⟩ := hut ht
  obtain ⟨hs, out₁, hreply₁, hbytes₁⟩ := hsu hu
  refine ⟨hs, out₁ ++ out₂, by rw [hreply₂, hreply₁, List.map_append, List.append_assoc], ?_⟩
  rw [List.append_assoc, hbytes₂, ← List.append_assoc, hbytes₁, List.append_assoc]

/-- A faulted RB stays faulted, so nothing is claimed of it. -/
theorem PerformsWhileRunning.firstInFirstOut {i : Instr} {f : State → State} (hi : PerformsWhileRunning i f)
    (hf : FirstInFirstOut bs s (f s)) (h : exec i s = .next t) : FirstInFirstOut bs s t := by
  by_cases hrun : s.bc.fault = .none
  · cases (hi.running hrun).symm.trans h; exact hf
  · cases (hi.faulted hrun).symm.trans h; exact fun ht => absurd ht hrun

/-- A push queues its bytes behind what was queued, or leaves RB faulted. -/
theorem pushed_firstInFirstOut (bs : List Byte) (s : State) : FirstInFirstOut bs s (pushed bs s) := by
  rcases pushed_cases bs s with ⟨-, e⟩ | ⟨-, e⟩
  · rw [e]; exact fun h => ⟨h, [], by simp, rfl⟩
  · rw [e]; nofun

/-- A pop takes the first byte of the queue, or leaves RB faulted. -/
theorem popped_firstInFirstOut (s : State) : FirstInFirstOut [] s (popped s) := by
  cases hq : s.rbQ with
  | nil => rw [popped_of_nil hq]; nofun
  | cons b q => rw [popped_of_cons hq]; exact fun h => ⟨h, [b], rfl, by simp [hq]⟩

/-- What one call pushes. -/
def RbCall.bytes : RbCall → List Byte
  | .push b => [b]
  | .pushn bs => bs
  | .pop => []

theorem bytesPushed_cons (c : RbCall) (cs : List RbCall) : bytesPushed (c :: cs) = c.bytes ++ bytesPushed cs := by
  cases c <;> rfl

theorem RbCall.firstInFirstOut (c : RbCall) (h : exec c.instr s = .next t) : FirstInFirstOut c.bytes s t := by
  cases c with
  | push b => exact (rbPush_performs b).firstInFirstOut (pushed_firstInFirstOut [b] s) h
  | pushn bs =>
    by_cases hbs : bs = []
    · subst hbs; cases h; exact .refl s
    · exact (rbPushn_performs hbs).firstInFirstOut (pushed_firstInFirstOut bs s) h
  | pop => exact rbPop_performs.firstInFirstOut (popped_firstInFirstOut s) h

/-- A sequence's first operation and the rest. -/
theorem runInstrs_cons {i : Instr} {is : List Instr} (h : runInstrs (i :: is) s = .next t) :
    ∃ u, exec i s = .next u ∧ runInstrs is u = .next t := by
  obtain ⟨u, hu⟩ := exec_next i s
  exact ⟨u, hu, by simpa [runInstrs, hu] using h⟩

/-- By induction on the calls. -/
theorem runInstrs_firstInFirstOut (calls : List RbCall) (h : runInstrs (calls.map RbCall.instr) s = .next t) :
    FirstInFirstOut (bytesPushed calls) s t := by
  induction calls generalizing s with
  | nil => cases h; exact .refl _
  | cons c cs ih =>
    obtain ⟨u, hu, hrest⟩ := runInstrs_cons h
    rw [bytesPushed_cons]
    exact (c.firstInFirstOut hu).trans (ih hrest)

end Fifo

/-- Settles O13: the law from any queue, at the empty one. -/
theorem rbIsFirstInFirstOut : Obligations.RbIsFirstInFirstOut := by
  intro calls s t hq hfault h
  obtain ⟨-, out, hreply, hbytes⟩ := runInstrs_firstInFirstOut calls h hfault
  exact ⟨out, hreply, by rw [hbytes, hq, List.nil_append]⟩

end Sys2Proof.Machine

/-! PROOFS. The step (00_scope.md R6, R8, R9), and a program placed in the environment (70_reset_and_hazards.md R256). -/

namespace Sys2Proof.Machine

/-- With legal parameters a step performs the event that comes first in the environment. -/
theorem step_of_cons {s : State} {ev : Event} {e : Env} (hwf : s.params.wf = true) (henv : s.env = e.cons ev) :
    step s = perform ev (setEnv e s) := by
  rw [step, if_pos hwf, henv, takeEvent_cons]

theorem step_of_empty_schedule {s : State} (hwf : s.params.wf = true) (hsched : s.env.schedule = []) :
    step s = .next s := by
  rw [step, if_pos hwf, takeEvent, hsched]
  rfl

theorem perform_of_op {ev : Event} {s : State} {i : Instr} (h : decode ev s.selector = .op i) :
    perform ev s = exec i s := by
  rw [perform, h]

theorem perform_of_dropped {ev : Event} {s : State} {why : Reject} (h : decode ev s.selector = .dropped why) :
    perform ev s = .next s := by
  rw [perform, h]

/-- Settles O37: the selection does not read the environment. -/
theorem stepRunsTheSelectedOperation : Obligations.StepRunsTheSelectedOperation := by
  intro s hwf
  refine ⟨fun ev e henv => ?_, step_of_empty_schedule hwf⟩
  rw [step_of_cons hwf henv]
  exact ⟨fun _ hsel => perform_of_op (s := setEnv e s) hsel, fun _ hsel => perform_of_dropped (s := setEnv e s) hsel⟩

/-- Settles O38: the ranges are those that `Params.wf` checks. -/
theorem onlyLegalParametersRun : Obligations.OnlyLegalParametersRun := by
  intro s
  have hranges : s.params.wf = true ↔ (1 ≤ s.params.capacity ∧ 1 ≤ s.params.maxPayload ∧ s.params.maxPayload ≤ 255 ∧
      s.params.cmdHeader ≠ [] ∧ s.params.ppMaxSize ≤ 255 ∧ s.params.statusCodes.Nodup) := by
    rw [Params.wf_iff, and_comm (a := s.params.statusCodes.Nodup)]
  refine ⟨fun hlegal => ?_, fun hillegal => if_neg (mt hranges.mp hillegal)⟩
  obtain ⟨-, t, -, hstep, -⟩ := step_serialises (hranges.mpr hlegal)
  exact ⟨t, hstep⟩

/-- A step from the state with a program placed performs the program's first event and leaves the rest placed. -/
theorem step_withEvents_cons {ev : Event} {evs : List Event} {s t : State} (hwf : s.params.wf = true)
    (h : perform ev s = .next t) : step (withEvents (ev :: evs) s) = .next (withEvents evs t) :=
  (step_of_cons (s := withEvents (ev :: evs) s) hwf rfl).trans (perform_setEnv h (Env.ofEvents evs))

/-- Settles O40, by induction on the program. -/
theorem placedProgramRunsInOrder : Obligations.PlacedProgramRunsInOrder := by
  intro evs
  induction evs with
  | nil => exact fun s _ => rfl
  | cons ev evs ih =>
    intro s hwf
    obtain ⟨t, ht⟩ := perform_next ev s
    have hstep : core.step (withEvents (ev :: evs) s) = .next (withEvents evs t) := step_withEvents_cons hwf ht
    have hrun : runEvents (ev :: evs) (setEnv Env.empty s) = runEvents evs (setEnv Env.empty t) :=
      runEvents_cons_of_perform (perform_setEnv ht Env.empty) evs
    exact (core_run_succ hstep evs.length).trans ((ih t (perform_params ht ▸ hwf)).trans hrun.symm)

end Sys2Proof.Machine

/-! PROOFS. A ready and a burst that arrive together (20_memory.md R75), and flushes that are not due. -/

namespace Sys2Proof.Machine

section Sent

variable (s : State)

@[simp] theorem sendChunk_params : (sendChunk s).params = s.params := by rw [sendChunk_eq]

@[simp] theorem sendChunk_rbQ : (sendChunk s).rbQ = s.rbQ.drop (chunkOf s.params s.rbQ).length := by
  rw [sendChunk_eq_drop_chunkOf]

@[simp] theorem sendChunk_bc : (sendChunk s).bc = { s.bc with ready := false } := by rw [sendChunk_eq]

@[simp] theorem sendChunk_devTx :
    (sendChunk s).out.devTx = s.out.devTx ++ [outboundFrame s.params (chunkOf s.params s.rbQ)] := by
  rw [sendChunk_eq]

end Sent

section Together

variable {bs : List Byte} {s : State}

theorem perform_ing_running (hrun : s.bc.fault = .none) (hbs : bs ≠ []) :
    perform (.ingress (.ing bs)) s = .next (ingest bs s) :=
  (bcIng_performs hbs).running hrun

theorem perform_stReady (hrun : s.bc.fault = .none) (hst : s.bc.rxState = .awaitingNotification) :
    perform (.device (.drx s.params.stReady)) s = .next (flushIfDue (setReady true s)) :=
  (perform_of_op (decode_eq_bcRdy_iff.mpr ⟨rfl, hrun, hst⟩)).trans (bcRdy_performs.running hrun)

theorem runEvents_pair {ev₁ ev₂ : Event} {u t : State} (h₁ : perform ev₁ s = .next u) (h₂ : perform ev₂ u = .next t) :
    runEvents [ev₁, ev₂] s = .next t :=
  (runEvents_cons_of_perform h₁ [ev₂]).trans (runEvents_cons_of_perform h₂ [])

variable (hbs : bs ≠ []) (hrun : s.bc.fault = .none) (hst : s.bc.rxState = .awaitingNotification)
  (hfits : s.rbQ.length + bs.length ≤ s.params.capacity)
include hbs hrun hst hfits

/-- The burst waits for the credit, which sends the first chunk of all that is queued. -/
theorem runEvents_burst_ready (hready : s.bc.ready = false) :
    runEvents [.ingress (.ing bs), .device (.drx s.params.stReady)] s =
      .next (sendChunk (setReady true (setRbQ (s.rbQ ++ bs) s))) := by
  have hburst : perform (.ingress (.ing bs)) s = .next (setRbQ (s.rbQ ++ bs) s) := by
    rw [perform_ing_running hrun hbs, ingest_of_no_credit hfits hready]
  have hq : s.rbQ ++ bs ≠ [] := by simp [hbs]
  refine runEvents_pair hburst ((perform_stReady (s := setRbQ (s.rbQ ++ bs) s) hrun hst).trans ?_)
  rw [flushIfDue_of_due (s := setReady true (setRbQ (s.rbQ ++ bs) s)) rfl hq]

/-- With nothing queued the credit waits for the burst, and sends its first chunk. -/
theorem runEvents_ready_burst_of_empty (hq : s.rbQ = []) :
    runEvents [.device (.drx s.params.stReady), .ingress (.ing bs)] s =
      .next (sendChunk (setRbQ (s.rbQ ++ bs) (setReady true s))) := by
  have hgrant : perform (.device (.drx s.params.stReady)) s = .next (setReady true s) := by
    rw [perform_stReady hrun hst, flushIfDue_of_empty (s := setReady true s) hq]
  refine runEvents_pair hgrant ((perform_ing_running (s := setReady true s) hrun hbs).trans ?_)
  rw [ingest_of_credit (s := setReady true s) hbs hfits rfl]
  rfl

/-- Otherwise the credit is spent on what was queued before, and the burst stays queued. -/
theorem runEvents_ready_burst_of_queued (hq : s.rbQ ≠ []) :
    runEvents [.device (.drx s.params.stReady), .ingress (.ing bs)] s =
      .next (setRbQ (s.rbQ.drop (chunkOf s.params s.rbQ).length ++ bs) (sendChunk (setReady true s))) := by
  have hgrant : perform (.device (.drx s.params.stReady)) s = .next (sendChunk (setReady true s)) := by
    rw [perform_stReady hrun hst, flushIfDue_of_due (s := setReady true s) rfl hq]
  have hroom : (sendChunk (setReady true s)).rbQ.length + bs.length ≤
      (sendChunk (setReady true s)).params.capacity := by
    simp only [sendChunk_rbQ, sendChunk_params, setReady_rbQ, setReady_params, List.length_drop]
    omega
  have hburst : perform (.ingress (.ing bs)) (sendChunk (setReady true s)) =
      .next (ingest bs (sendChunk (setReady true s))) := perform_ing_running (by simp [hrun]) hbs
  refine runEvents_pair hgrant (hburst.trans ?_)
  rw [ingest_of_no_credit hroom (by simp), sendChunk_rbQ]
  rfl

end Together

/-- Settles O56: with nothing queued both orders put the burst and the credit together and send the same chunk. -/
theorem readyAndBurstInEitherOrder : Obligations.ReadyAndBurstInEitherOrder := by
  intro bs s hbs hwf hrun hready hst hfits
  have hburst := runEvents_burst_ready hbs hrun hst hfits hready
  by_cases hq : s.rbQ = []
  · have hgrant := runEvents_ready_burst_of_empty hbs hrun hst hfits hq
    exact ⟨_, _, hgrant, hburst, by simp, by simp, by simp, fun _ => rfl, fun hne => absurd hq hne⟩
  · have hgrant := runEvents_ready_burst_of_queued hbs hrun hst hfits hq
    exact ⟨_, _, hgrant, hburst, by simp, by simp, by simp, fun hnil => absurd hnil hq, fun _ => ⟨by simp, rfl⟩⟩

theorem flushIfDue_of_no_credit {s : State} (hready : s.bc.ready = false) : flushIfDue s = s := by
  rcases flushIfDue_cases s with ⟨hready', -, -⟩ | ⟨-, e⟩
  · simp [hready] at hready'
  · exact e

/-- Settles O17. -/
theorem nothingDueChangesNothing : Obligations.NothingDueChangesNothing := by
  refine fun s => ⟨fun hidle => ?_, rfl⟩
  by_cases hrun : s.bc.fault = .none
  · rw [bcFlush_performs.running hrun]
    rcases hidle with hfault | hready | hq
    · exact absurd hrun hfault
    · rw [flushIfDue_of_no_credit hready]
    · rw [flushIfDue_of_empty hq]
  · exact bcFlush_performs.faulted hrun

end Sys2Proof.Machine

/-! PROOFS. `RESET` (70_reset_and_hazards.md R235), written bytes, and the status view (10_state.md R48). -/

namespace Sys2Proof.Machine

/-- Settles O2. -/
theorem resetWritesEveryRegister : Obligations.ResetWritesEveryRegister := ⟨fun _ => rfl, fun _ => rfl⟩

/-- Settles O42: each byte selects by computation, in the table's state or in the state at reset. -/
theorem writtenBytesSelect : Obligations.WrittenBytesSelect :=
  ⟨rfl, rfl, rfl, rfl, rfl, rfl, rfl, rfl, rfl⟩

/-- The codes tell the faults apart, and 3 is none of them (60_exceptions.md R209). -/
theorem faultCode_iff (f : BcFault) : (f = .none ↔ faultCode f = 0) ∧ (f = .overflow ↔ faultCode f = 1) ∧
    (f = .underflow ↔ faultCode f = 2) ∧ faultCode f ≠ 3 := by
  cases f <;> decide

/-- Settles O60. -/
theorem statusViewShowsTheState : Obligations.StatusViewShowsTheState := by
  intro s
  obtain ⟨hnone, hover, hunder, hthree⟩ := faultCode_iff s.bc.fault
  have hempty : s.rbQ.isEmpty = true ↔ s.rbQ.length = 0 := List.isEmpty_iff_length_eq_zero
  exact ⟨rfl, rfl, hempty, rfl, hnone, hover, hunder, hthree, rfl, rfl, rfl, fun h => if_pos h⟩

end Sys2Proof.Machine
